-- ==== Sys2Proof/Word.lean ====
section
/-! DEFINITION. The bit-vector types of CLD8: command and register words, sample bytes, binary64 encodings. -/

namespace Sys2Proof

/-- A register or command word: every register and every command is 32 bits (R23, R90). -/
abbrev Word := BitVec 32

/-- A sample: one unsigned byte of sample memory (R8, R66). -/
abbrev Byte := BitVec 8

/-- The 64-bit encoding of a binary64 value, `bits64` of R11. -/
abbrev Double := BitVec 64

end Sys2Proof
end

