-- ==== Sys2Proof/Config.lean ====
section
/-! DEFINITION. What is fixed for every CLD8 (R8, R24), and the values the spec leaves open that no state holds:
opaque constants, of which nothing can be proved but what holds for every value. -/

namespace Sys2Proof.Config

/-- NUM_CH, the channel count (R8). -/
def numCh : Nat := 3

/-- GRID_M, the grid size (R8). -/
def gridM : Nat := 8

/-- ZZGEN_MAX_M, the largest size the ZZGEN command takes (R8). -/
def zzgenMaxM : Nat := 8

/-- ADDR_BITS as a bound: sample addresses are integers below 2^32 (R65). -/
def addrLimit : Nat := 2 ^ 32

/-- The constant the ID register reads, "CLD8" in ASCII (R24). -/
def idValue : Word := 0x434C4438#32

/-- The constant the VERSION register reads: major 0, minor 1 (R24). -/
def versionValue : Word := 0x00000001#32

/-- REG_BASE (R70, OPEN): where the platform places the register space. No CLD8 behaviour depends on it (93 A9; log 14). -/
opaque regBase : Nat

/-- The platform address of a register offset (R70): what a Host puts on its bus for `RegRead(off)`. -/
def registerAddress (off : BitVec 12) : Nat := regBase + off.toNat

/-- FREE VALUE (R74, 93 A14; log 8): which of the values a racing sample byte held is the one read.
Arguments: the command's draw index, the channel, the address. Only its remainder by the number of candidates is used. -/
opaque sampleDraw : Nat → Nat → Nat → Nat

end Sys2Proof.Config
end

