-- ==== Sys2Proof/Syntax.lean ====
section
/-! DEFINITION. The seven commands of CLD8 (spec/opcode_table.json, R94), the reasons a word is no command,
and the error codes of R210. -/

namespace Sys2Proof

/-- A command with its operands as the word holds them (R91, R93): CH has two bits, M has four.
The operand checks of R95 come after the row is selected, so `reduce 3` and `zzgen 0` are terms of this type
(R96: "a well-formed spelling with no channel") and are ill-formed in the sense of `Instr.WellFormed`. -/
inductive Instr where
  /-- NOP, R184. -/
  | nop
  /-- REDUCE ch, R126. -/
  | reduce (ch : BitVec 2)
  /-- DCT, R146. -/
  | dct
  /-- REORDER ch, R165. -/
  | reorder (ch : BitVec 2)
  /-- RUN_CH ch, R185. -/
  | runCh (ch : BitVec 2)
  /-- RUN_FRAME, R186. -/
  | runFrame
  /-- ZZGEN m, R163. -/
  | zzgen (m : BitVec 4)
  deriving DecidableEq, Repr

/-- Why a word selects no row of the opcode table. Both reasons complete with ILLEGAL_CMD (R96). -/
inductive DecodeReject where
  /-- An opcode 0x07 to 0xFF. -/
  | reservedOpcode (op : BitVec 8)
  /-- A defined opcode with a reserved bit set. -/
  | reservedBits (op : BitVec 8)
  deriving DecidableEq, Repr

/-- The error codes 1 to 7 of R210. Code 0 is success; codes 8 to 15 are never reported. -/
inductive ErrorCode where
  | illegalCmd
  | badChannel
  | badParam
  | noData
  | invalidInput
  | degenerateGeometry
  | busError
  deriving DecidableEq, Repr

/-- `Error(code, ch)` of R12: what `raise` ends a command with. -/
structure CmdError where
  code : ErrorCode
  ch   : BitVec 2
  deriving DecidableEq, Repr

end Sys2Proof
end

