-- ==== Sys2Proof/WellFormed.lean ====
section
/-! DEFINITION. Which commands an assembler accepts (R98): a channel below NUM_CH, a size from 1 to ZZGEN_MAX_M. -/

namespace Sys2Proof

/-- A channel operand names a channel (R95: `ch >= NUM_CH` is BAD_CHANNEL). -/
def channelOk (ch : BitVec 2) : Bool := ch.toNat < Config.numCh

/-- A size operand is in [1, 8] (R95: `m = 0 or m > 8` is BAD_PARAM). -/
def sizeOk (m : BitVec 4) : Bool := 1 ≤ m.toNat && m.toNat ≤ Config.zzgenMaxM

/-- The operand checks of a command, as a test. -/
def Instr.wellFormed : Instr → Bool
  | .nop => true
  | .reduce ch => channelOk ch
  | .dct => true
  | .reorder ch => channelOk ch
  | .runCh ch => channelOk ch
  | .runFrame => true
  | .zzgen m => sizeOk m

/-- The commands of R98: those an assembler accepts. -/
abbrev Instr.WellFormed (i : Instr) : Prop := i.wellFormed = true

end Sys2Proof
end

