-- ==== Sys2Proof/Decode.lean ====
section
/-! DEFINITION. Command words to commands and back (R90 to R98). `decode` is total on 32-bit words and rejects by name;
`encode` is `enc` of R98. -/

namespace Sys2Proof

/-- OP, bits 7:0 (R91). -/
def opField (w : Word) : BitVec 8 := w.extractLsb' 0 8

/-- CH, bits 9:8, in format FC (R91, R93). -/
def chField (w : Word) : BitVec 2 := w.extractLsb' 8 2

/-- M, bits 19:16, in format FM (R91, R93). -/
def mField (w : Word) : BitVec 4 := w.extractLsb' 16 4

/-- Format F0 (R92): bits 31:8 are reserved and must be 0. -/
def decodeF0 (i : Instr) (w : Word) : Except DecodeReject Instr :=
  if w.extractLsb' 8 24 = 0#24 then .ok i else .error (.reservedBits (opField w))

/-- Format FC (R92): bits 31:10 are reserved and must be 0; bits 9:8 are the channel. -/
def decodeFC (mk : BitVec 2 → Instr) (w : Word) : Except DecodeReject Instr :=
  if w.extractLsb' 10 22 = 0#22 then .ok (mk (chField w)) else .error (.reservedBits (opField w))

/-- Format FM (R92): bits 15:8 and 31:20 are reserved and must be 0; bits 19:16 are the size. -/
def decodeFM (mk : BitVec 4 → Instr) (w : Word) : Except DecodeReject Instr :=
  if w.extractLsb' 8 8 = 0#8 ∧ w.extractLsb' 20 12 = 0#12 then .ok (mk (mField w))
  else .error (.reservedBits (opField w))

/-- The row of the opcode map that a word selects (R94), with its operands as they stand in the word (R93).
The checks on the operands' values, the second half of R95's `Decode`, are `channelOperand` and `sizeOperand` of
Machine/Operands.lean; `decodeCommand` there is the two together (log 11). -/
def decode (w : Word) : Except DecodeReject Instr :=
  if opField w = 0x00#8 then decodeF0 .nop w
  else if opField w = 0x01#8 then decodeFC .reduce w
  else if opField w = 0x02#8 then decodeF0 .dct w
  else if opField w = 0x03#8 then decodeFC .reorder w
  else if opField w = 0x04#8 then decodeFC .runCh w
  else if opField w = 0x05#8 then decodeF0 .runFrame w
  else if opField w = 0x06#8 then decodeFM .zzgen w
  else .error (.reservedOpcode (opField w))

/-- `enc` of R98. -/
def encode : Instr → Word
  | .nop => 0x00000000#32
  | .reduce ch => 0#22 ++ ch ++ 0x01#8
  | .dct => 0x00000002#32
  | .reorder ch => 0#22 ++ ch ++ 0x03#8
  | .runCh ch => 0#22 ++ ch ++ 0x04#8
  | .runFrame => 0x00000005#32
  | .zzgen m => 0#12 ++ m ++ 0x00#8 ++ 0x06#8

/-- The command word made of the low `nbits` bits of `w`, the bits above them 0. Every command is one 32-bit word (R90). -/
def tableWord (nbits w : Nat) : Word := BitVec.ofNat 32 (w % 2 ^ nbits)

/-- What `decode` reads from a word given as a number, bit 0 the least significant. -/
def decodeTableWord (nbits w : Nat) : Option Instr :=
  match decode (tableWord nbits w) with
  | .ok i => some i
  | .error _ => none

end Sys2Proof
end

