-- ==== Sys2Proof/Machine/State.lean ====
section
/-! DEFINITION. The state of CLD8 (R22, R43), of the sample memory it reads (R65), of the Host that drives it (R99),
and the state after reset (R47, R250). Plain data throughout. -/

namespace Sys2Proof.Machine

/-- The plane configuration of one channel (R32 to R35): PLANE_BASE, PLANE_WIDTH, PLANE_HEIGHT, PLANE_STRIDE. -/
structure PlaneRegs where
  base   : BitVec 32
  width  : BitVec 16
  height : BitVec 16
  stride : BitVec 32
  deriving DecidableEq, Repr

/-- BG (R22): entry n is BG[n // 8][n mod 8], row = vertical cell index (R13, R36). Signed 64-bit entries. -/
abbrev BlockGrid := Vector (BitVec 64) 64

/-- CG (R22): entry n is CG[n // 8][n mod 8], row = horizontal frequency (R13, R37). -/
abbrev CoeffGrid := Vector Double 64

/-- One channel of DESC (R22): entry k is zigzag position k (R13). -/
abbrev Descriptor := Vector Double 64

/-- What a successful ZZGEN leaves (R163): the size m, which STATUS.ZZGEN_M shows, and the 64 table entries. -/
structure ZzTable where
  m       : BitVec 4
  entries : Vector (BitVec 6) 64
  deriving DecidableEq, Repr

/-- The in-flight latch (R43): `cmd` is lat_cmd, `planes` is lat_plane[ch], `present` is lat_present.
`overwritten` is the model's own (log 8): the value each sample-memory write since acceptance replaced, newest first,
so that a completion knows every value a byte held in the interval (R74). -/
structure Latch where
  cmd         : Word
  planes      : Vector PlaneRegs 3
  present     : BitVec 3
  overwritten : List Host.Cell
  deriving DecidableEq, Repr

/-- Sample memory: (address, byte) cells, addresses strictly rising, none equal to 0, which is what an unlisted address
reads as (log 5). -/
abbrev Memory := List Host.Cell

/-- The canonical form of sample memory, addresses of 32 bits (R65). -/
abbrev Memory.wf (m : Memory) : Prop :=
  m.Pairwise (fun c d => c.1 < d.1) ∧ ∀ c ∈ m, c.2 ≠ 0#8 ∧ c.1 < Config.addrLimit

/-- Sample addresses `lo` up to but not including `hi`. -/
structure AddrRange where
  lo : Nat
  hi : Nat
  deriving DecidableEq, Repr

/-- The OPEN parameters that what CLD8 does depends on (R8, R270), as plain data so that every claim is made for every value
of them (log 3, log 4). No step changes them. -/
structure Platform where
  /-- SAMPLE_MEM_SIZE: the bytes of sample memory the Engine may read, 1 to 2^32. -/
  sampleMemSize : Nat
  /-- SAMPLE_READ_FAULT: the predicate that holds on the addresses of these ranges. -/
  faultRanges   : List AddrRange
  /-- SAMPLE_MEM_LIVENESS (R270): every sample read is answered, so that a command in flight completes in the end. -/
  sampleMemLive : Bool
  deriving DecidableEq, Repr

/-- SAMPLE_MEM_SIZE is an integer in [1, 2^32] (R8). -/
abbrev Platform.wf (p : Platform) : Prop := 1 ≤ p.sampleMemSize ∧ p.sampleMemSize ≤ 2 ^ 32

/-- One access of the Host (R60, R99). `bits` is the width of a register access: only 32 is legal (R61). -/
inductive HostOp where
  /-- `R32 off`: RegRead(off). -/
  | regRead (off : BitVec 12) (bits : Nat)
  /-- `W32 off, v`: RegWrite(off, v). -/
  | regWrite (off : BitVec 12) (bits : Nat) (v : Word)
  /-- `POLL off, mask, val`: RegRead(off) until (t & mask) = val, one read a step. -/
  | poll (off : BitVec 12) (mask : Word) (val : Word)
  /-- The last part of `RD64 off -> name` (R100): name <- {hi, lo}, from the two values read last. No bus access. -/
  | join (off : BitVec 12)
  /-- A register read at an offset that the 4096 bytes of R60 do not hold, which RD64 at the last word comes to (log 19). -/
  | readBeyond (off : Nat)
  /-- `MEM8 addr, b`: a write to sample memory, by the Host or any other master (R7). -/
  | mem8 (addr : BitVec 32) (b : Byte)
  deriving DecidableEq, Repr

/-- Who moves next (R217; log 1). -/
inductive Turn where
  /-- The Host's next access. -/
  | host
  /-- The Engine's completion step, if a command is in flight. -/
  | engine
  /-- The reset input (R250). -/
  | hardReset
  deriving DecidableEq, Repr

/-- The machine. Fields up to `planes` are CLD8's architectural state (R22, R43); `mem` and `platform` are the sample
memory and the OPEN parameters; the last five are the model's own (log 1, log 2, log 8, log 19). -/
structure State where
  /-- The in-flight latch (R43). It holds a command exactly while busy = 1: its validity bit is STATUS.BUSY (R21; log 7). -/
  latch        : Option Latch
  /-- BG. bg_valid is "BG holds a committed result" (R22), so it is `bg.isSome` (R48; log 6). -/
  bg           : Option BlockGrid
  /-- CG, with cg_valid as `cg.isSome` (R22, R48; log 6). -/
  cg           : Option CoeffGrid
  /-- DESC[0..2], with desc_valid[ch] as `desc[ch].isSome` (R22, R48; log 6). -/
  desc         : Vector (Option Descriptor) 3
  /-- The ZZGEN table and zzgen_m; `none` is zzgen_m = 0 (R22, R48; log 6). -/
  zzgen        : Option ZzTable
  /-- LAST_ERR.CODE (R28). -/
  lastCode     : BitVec 4
  /-- LAST_ERR.OPCODE (R28). -/
  lastOpcode   : BitVec 8
  /-- LAST_ERR.CH (R28). -/
  lastCh       : BitVec 2
  /-- IRQ_STATUS.DONE (R29). -/
  irqDone      : Bool
  /-- IRQ_STATUS.ERR (R29). -/
  irqErr       : Bool
  /-- IRQ_STATUS.OVERRUN (R29). -/
  irqOverrun   : Bool
  /-- IRQ_ENABLE[2:0] (R30). -/
  irqEn        : BitVec 3
  /-- CH_PRESENT[2:0] (R31). -/
  chPresent    : BitVec 3
  /-- The live PLANE registers of channels 0, 1, 2 (R32 to R35). -/
  planes       : Vector PlaneRegs 3
  /-- Sample memory (R65). -/
  mem          : Memory
  /-- SAMPLE_MEM_SIZE, SAMPLE_READ_FAULT, SAMPLE_MEM_LIVENESS (R8, R270). -/
  platform     : Platform
  /-- The accesses the Host has still to make, next first (R99; log 2). -/
  hostProgram  : List HostOp
  /-- What the Host's `R32` reads returned, newest first: offset and value (R99; log 2). -/
  hostReads    : List (BitVec 12 × Word)
  /-- The 64-bit values the Host's `RD64` lines formed, newest first: offset of the low word and value (R100; log 19). -/
  hostWides    : List (BitVec 12 × BitVec 64)
  /-- The turns still to be taken, next first (log 1). -/
  schedule     : List Turn
  /-- The number of successful completions so far: makes the free draws of each command fresh (R74; log 8). -/
  drawIndex    : Nat
  deriving DecidableEq, Repr

/-- Why a step stops. The first two are register accesses that get an error response on the register bus and no effect (R61): safe,
since the model stops where the chip goes on unchanged (log 9). The third is an access outside the register space (log 19). -/
inductive Fault where
  /-- Raised by a Host register access whose width is not 32 bits (R61). Safe. -/
  | registerWidth (off : BitVec 12) (bits : Nat)
  /-- Raised by a 32-bit Host register access whose offset is not a multiple of 4 (R61). Safe. -/
  | registerMisaligned (off : BitVec 12)
  /-- DESIGN CHOICE (log 19): raised by a Host register read at an offset beyond 0xFFF, which the register space of R60 does not hold;
  the spec says nothing of it. Safe. -/
  | registerOutside (off : Nat)
  deriving DecidableEq, Repr

/-- Why an instruction has no meaning. -/
inductive Refusal where
  /-- Raised by an arm of `exec` for an instruction that is not modelled; no arm raises it now. Safe. -/
  | notModelled (mnemonic : String)
  deriving DecidableEq, Repr

/-- A PLANE register set at its reset value (R32 to R35). -/
def PlaneRegs.reset : PlaneRegs := { base := 0, width := 0, height := 0, stride := 0 }

/-- The machine right after reset (R47, R250): every register 0, idle, nothing valid. The values of `mem`, `platform` and
the model's own fields are no part of the spec's reset (log 1, log 2, log 4, log 5, log 8, log 19). -/
def State.reset : State where
  latch       := none
  bg          := none
  cg          := none
  desc        := Vector.replicate 3 none
  zzgen       := none
  lastCode    := 0
  lastOpcode  := 0
  lastCh      := 0
  irqDone     := false
  irqErr      := false
  irqOverrun  := false
  irqEn       := 0
  chPresent   := 0
  planes      := Vector.replicate 3 PlaneRegs.reset
  mem         := []
  platform    := { sampleMemSize := 0x10000, faultRanges := [], sampleMemLive := true }
  hostProgram := []
  hostReads   := []
  hostWides   := []
  schedule    := []
  drawIndex   := 0

end Sys2Proof.Machine
end

