-- ==== Sys2Proof/Machine/Ops.lean ====
section
/-! DEFINITION. The shared operations: sample memory, the sample reads of a command in flight, the life of a command
(acceptance, overrun, completion with success or with an error), reset, and the commits. -/

namespace Sys2Proof.Machine

/-! ### Sample memory (R65, R66) -/

/-- The byte at an address; an unlisted address reads 0 (log 5). -/
def Memory.read : Memory → Nat → Byte
  | [], _ => 0#8
  | (b, v) :: m, a => if a = b then v else Memory.read m a

/-- The memory with the byte at `a` set to `v`, in canonical form. -/
def Memory.write : Memory → Nat → Byte → Memory
  | [], a, v => if v = 0#8 then [] else [(a, v)]
  | (b, w) :: m, a, v =>
    if a < b then (if v = 0#8 then (b, w) :: m else (a, v) :: (b, w) :: m)
    else if a = b then (if v = 0#8 then m else (a, v) :: m)
    else (b, w) :: Memory.write m a v

/-- SAMPLE_READ_FAULT(addr) (R8, R66). -/
def sampleReadFault (p : Platform) (a : Nat) : Bool := p.faultRanges.any fun r => r.lo ≤ a && a < r.hi

/-! ### Views of the state that the spec names -/

/-- busy (R22). -/
def State.busy (s : State) : Bool := s.latch.isSome

/-- bg_valid (R22). -/
def State.bgValid (s : State) : Bool := s.bg.isSome

/-- cg_valid (R22). -/
def State.cgValid (s : State) : Bool := s.cg.isSome

/-- desc_valid[ch] (R22). -/
def State.descValid (s : State) (c : Fin 3) : Bool := s.desc[c.val].isSome

/-- zzgen_m (R22); 0 is "none". -/
def State.zzgenM (s : State) : BitVec 4 :=
  match s.zzgen with
  | none => 0#4
  | some t => t.m

/-- The live PLANE registers of a channel (R32 to R35). -/
def State.plane (s : State) (c : Fin 3) : PlaneRegs := s.planes[c.val]

/-- lat_plane[ch] (R43). -/
def Latch.plane (l : Latch) (c : Fin 3) : PlaneRegs := l.planes[c.val]

/-- lat_present[ch] (R43). -/
def Latch.isPresent (l : Latch) (c : Fin 3) : Bool := l.present.getLsbD c.val

/-- A channel number as the two-bit CH field has it (R91). -/
def chBits (c : Fin 3) : BitVec 2 := BitVec.ofNat 2 c.val

/-! ### Sample reads of the command in flight (R66, R74) -/

/-- The values the byte at `a` held from acceptance to completion: what it holds now, and what every write since
acceptance replaced (R74). -/
def bytesHeld (s : State) (l : Latch) (a : Nat) : List Byte :=
  Memory.read s.mem a :: (l.overwritten.filter fun c => c.1 == a).map Prod.snd

/-- `MemRead(a, 1)` for channel `c` where it does not fault: the byte's value, or, if it was written while the command was in
flight, a FREE draw from the values it held (R74; log 8). -/
def sampleByte (s : State) (l : Latch) (c : Fin 3) (a : Nat) : Byte :=
  match bytesHeld s l a with
  | [] => 0#8
  | [v] => v
  | held => held.getD (Config.sampleDraw s.drawIndex c.val a % held.length) 0#8

/-! ### Commits (the "commit:" lines of the commands' rules) -/

/-- BG ← g, bg_valid ← 1 (R126). -/
def commitBlockGrid (g : BlockGrid) (s : State) : State := { s with bg := some g }

/-- CG ← c, cg_valid ← 1 (R146). -/
def commitCoeffGrid (c : CoeffGrid) (s : State) : State := { s with cg := some c }

/-- DESC[ch] ← d, desc_valid[ch] ← 1 (R165). -/
def commitDescriptor (ch : Fin 3) (d : Descriptor) (s : State) : State := { s with desc := s.desc.set ch.val (some d) }

/-- ZZGEN ← the table, zzgen_m ← m (R163). -/
def commitZigzag (t : ZzTable) (s : State) : State := { s with zzgen := some t }

/-! ### Acceptance and overrun (R180, R181) -/

/-- What acceptance captures (R43). -/
def captureLatch (w : Word) (s : State) : Latch :=
  { cmd := w, planes := s.planes, present := s.chPresent, overwritten := [] }

/-- `RegWrite(0x00C, w)`: accepted when idle, dropped with an overrun when busy. -/
def issue (w : Word) (s : State) : State :=
  if s.busy then { s with irqOverrun := true } else { s with latch := some (captureLatch w s) }

/-! ### Completion (R182) -/

/-- The error codes as LAST_ERR.CODE has them (R210). -/
def ErrorCode.bits : ErrorCode → BitVec 4
  | .illegalCmd => 0x1#4
  | .badChannel => 0x2#4
  | .badParam => 0x3#4
  | .noData => 0x4#4
  | .invalidInput => 0x5#4
  | .degenerateGeometry => 0x6#4
  | .busError => 0x7#4

/-- Success bookkeeping (R183) and busy ← 0, after the commits; `w` is lat_cmd. The draw index is the model's own (log 8). -/
def succeed (w : Word) (ch : BitVec 2) (s : State) : State :=
  { s with
    latch := none
    lastCode := 0#4
    lastOpcode := opField w
    lastCh := ch
    irqDone := true
    drawIndex := s.drawIndex + 1 }

/-- TAKING AN EXCEPTION: error bookkeeping (R214) and busy ← 0. LAST_ERR saves the code, the opcode byte and the channel;
irq_err is set; nothing else changes (R218). There is no return from it: the Host acknowledges an error by writing 1 to
IRQ_STATUS.ERR (R219), which is `clearIrq` below. -/
def takeError (w : Word) (e : CmdError) (s : State) : State :=
  { s with
    latch := none
    lastCode := ErrorCode.bits e.code
    lastOpcode := opField w
    lastCh := e.ch
    irqErr := true }

/-- The W1C write to IRQ_STATUS (R29): clears the bits that are 1 in `v`. Acknowledging an error (R219) is `clearIrq 2`. -/
def clearIrq (v : Word) (s : State) : State :=
  { s with
    irqDone := s.irqDone && !v.getLsbD 0
    irqErr := s.irqErr && !v.getLsbD 1
    irqOverrun := s.irqOverrun && !v.getLsbD 2 }

/-- `Complete()` of R182 around one command: `body` is the command's `Execute`, which answers the state with the commits applied
or raises, and `ch` is what success records in LAST_ERR.CH (R183). Enabled exactly when a command is in flight: with none, nothing
happens (log 12). -/
def complete (ch : BitVec 2) (body : Latch → Except CmdError State) (s : State) : Host.Outcome State Fault Refusal :=
  match s.latch with
  | none => .next s
  | some l =>
    match body l with
    | .ok t => .next (succeed l.cmd ch t)
    | .error e => .next (takeError l.cmd e s)

/-! ### Reset (R250, R251) -/

/-- Both resets: every piece of CLD8 state takes its reset value. Sample memory, the platform, the Host and the schedule are not
CLD8's and stay. -/
def resetDevice (s : State) : State :=
  { State.reset with
    mem := s.mem
    platform := s.platform
    hostProgram := s.hostProgram
    hostReads := s.hostReads
    hostWides := s.hostWides
    schedule := s.schedule
    drawIndex := s.drawIndex }

/-! ### Sample memory written by the Host or another master (R7, R99) -/

/-- `MEM8 addr, b`. While a command is in flight the replaced value is kept for its reads (R74). -/
def writeSample (a : Nat) (b : Byte) (s : State) : State :=
  { s with
    mem := Memory.write s.mem a b
    latch := s.latch.map fun l => { l with overwritten := (a, Memory.read s.mem a) :: l.overwritten } }

end Sys2Proof.Machine
end

