-- ==== Sys2Proof/Machine/Operands.lean ====
section
/-! DEFINITION. The operands of the commands and the checks on their values: the second half of R95's `Decode`, and
`ValidatePlane` (R123), which every command that reads a plane runs on its channel operand. -/

namespace Sys2Proof.Machine

/-- The channel operand of format FC (R95): BAD_CHANNEL, recording the field's value, if it is not below NUM_CH (R215). -/
def channelOperand (ch : BitVec 2) : Except CmdError (Fin 3) :=
  if h : ch.toNat < 3 then .ok ⟨ch.toNat, h⟩ else .error ⟨.badChannel, ch⟩

/-- The size operand of format FM (R95): BAD_PARAM, recording channel 0, if it is not in [1, 8]. -/
def sizeOperand (m : BitVec 4) : Except CmdError Nat :=
  if sizeOk m then .ok m.toNat else .error ⟨.badParam, 0#2⟩

/-- The operand check of a command, as R95 makes it inside `Decode`. -/
def checkOperands : Instr → Except CmdError Unit
  | .nop => .ok ()
  | .reduce ch => (channelOperand ch).map fun _ => ()
  | .dct => .ok ()
  | .reorder ch => (channelOperand ch).map fun _ => ()
  | .runCh ch => (channelOperand ch).map fun _ => ()
  | .runFrame => .ok ()
  | .zzgen m => (sizeOperand m).map fun _ => ()

/-- `Decode(w)` of R95 whole: the row of the word, then the operand check. -/
def decodeCommand (w : Word) : Except CmdError Instr :=
  match decode w with
  | .error _ => .error ⟨.illegalCmd, 0#2⟩
  | .ok i =>
    match checkOperands i with
    | .ok _ => .ok i
    | .error e => .error e

/-- `A(x, y)` of R67, on mathematical integers. -/
def sampleAddr (p : PlaneRegs) (x y : Nat) : Nat := p.base.toNat + y * p.stride.toNat + x

/-- `ValidatePlane(ch)` of R123, in its order. It reads only the latch and SAMPLE_MEM_SIZE. -/
def validatePlane (pl : Platform) (l : Latch) (c : Fin 3) : Except CmdError PlaneRegs :=
  let p := l.plane c
  if !l.isPresent c then .error ⟨.invalidInput, chBits c⟩
  else if p.width = 0 ∨ p.height = 0 then .error ⟨.invalidInput, chBits c⟩
  else if p.stride.toNat < p.width.toNat then .error ⟨.invalidInput, chBits c⟩
  else if p.width.toNat < 8 ∨ p.height.toNat < 8 then .error ⟨.degenerateGeometry, chBits c⟩
  else if pl.sampleMemSize ≤ p.base.toNat + (p.height.toNat - 1) * p.stride.toNat + (p.width.toNat - 1) then
    .error ⟨.busError, chBits c⟩
  else .ok p

end Sys2Proof.Machine
end

