-- ==== Sys2Proof/Machine/BlockReducer.lean ====
section
/-! DEFINITION. The Block Reducer: the partition of a plane (R120 to R122), the cell mean (R124), `ReducePlane` (R125) and the
command REDUCE (R126). -/

namespace Sys2Proof.Machine

/-- `Edge(e, D)` of R121: e·D/8 rounded to nearest, ties up. -/
def edge (e d : Nat) : Nat := (e * d + 4) / 8

/-- The coordinates of cell index `i` along a dimension `d`: Edge(i, d) up to but not including Edge(i+1, d) (R122). -/
def cellRange (i d : Nat) : List Nat := List.range' (edge i d) (edge (i + 1) d - edge i d)

/-- The addresses cell (i, j) of a plane reads, row by row (R124). -/
def cellAddrs (p : PlaneRegs) (i j : Nat) : List Nat :=
  (cellRange j p.height.toNat).flatMap fun y => (cellRange i p.width.toNat).map fun x => sampleAddr p x y

/-- `CellMean(ch, i, j)` of R124 where no read faults: the truncated mean. -/
def cellMean (s : State) (l : Latch) (c : Fin 3) (p : PlaneRegs) (i j : Nat) : Nat :=
  ((cellAddrs p i j).map fun a => (sampleByte s l c a).toNat).sum / (cellAddrs p i j).length

/-- Some read of the plane's 64 cells gets a read fault from the platform (R66, R125). -/
def planeReadFaults (pl : Platform) (p : PlaneRegs) : Bool :=
  (List.range 64).any fun n => (cellAddrs p (n % 8) (n / 8)).any (sampleReadFault pl)

/-- The 64 means, cell (i, j) at row j and column i (R125). -/
def planeMeans (s : State) (l : Latch) (c : Fin 3) (p : PlaneRegs) : BlockGrid :=
  Vector.ofFn fun n : Fin 64 => BitVec.ofNat 64 (cellMean s l c p (n.val % 8) (n.val / 8))

/-- `ReducePlane(ch)` of R125. A read fault anywhere in the plane ends the command with BUS_ERROR; in which order the reads
come is not observable (R68), so the faults are looked for first (log 16). -/
def reducePlane (s : State) (l : Latch) (c : Fin 3) : Except CmdError BlockGrid :=
  match validatePlane s.platform l c with
  | .error e => .error e
  | .ok p => if planeReadFaults s.platform p then .error ⟨.busError, chBits c⟩ else .ok (planeMeans s l c p)

/-- REDUCE ch (R126). -/
def execReduce (ch : BitVec 2) (s : State) : Host.Outcome State Fault Refusal :=
  complete ch (fun l => do
    let c ← channelOperand ch
    let t ← reducePlane s l c
    return commitBlockGrid t s) s

end Sys2Proof.Machine
end

