-- ==== Sys2Proof/Machine/Float64.lean ====
section
/-! DEFINITION. IEEE 754 binary64 over `bits64` (R11): addition and multiplication rounded to nearest, ties to even, negation, and
the value of an integer. Operands are taken apart into integers, the operation is exact, and one function rounds.
DctRef on grids with entries in [0,255] meets only finite values (R148); infinities and NaN are filled in as IEEE 754 has
them so that the operations are total (log 10). -/

namespace Sys2Proof.Machine

/-- The sign, bit 63 (R11). -/
def f64Sign (b : Double) : Bool := b.getLsbD 63

/-- The biased exponent, bits 62:52 (R11). -/
def f64Exponent (b : Double) : Nat := (b.extractLsb' 52 11).toNat

/-- The fraction, bits 51:0 (R11). -/
def f64Fraction (b : Double) : Nat := (b.extractLsb' 0 52).toNat

/-- A zero, subnormal or normal value. -/
def f64Finite (b : Double) : Bool := f64Exponent b != 2047

/-- The value is one of the two zeros. -/
def f64IsZero (b : Double) : Bool := f64Exponent b == 0 && f64Fraction b == 0

/-- Not a number. -/
def f64IsNaN (b : Double) : Bool := f64Exponent b == 2047 && f64Fraction b != 0

/-- −0.0. -/
def f64NegZero : Double := 0x8000000000000000#64

/-- The NaN an invalid operation returns; no CLD8 command ever returns it on a committed grid (R148; log 10). -/
def f64NaN : Double := 0x7FF8000000000000#64

/-- The integer significand of a finite value. -/
def f64Significand (b : Double) : Nat :=
  if f64Exponent b = 0 then f64Fraction b else 2 ^ 52 + f64Fraction b

/-- The scale of a finite value: its magnitude is `f64Significand b * 2 ^ (f64Scale b - 1074)`. -/
def f64Scale (b : Double) : Nat := f64Exponent b - 1

/-- The rational number a finite encoding stands for; used by claims only. -/
def f64ToRat (b : Double) : Rat :=
  (if f64Sign b then -1 else 1) * (f64Significand b : Rat) * 2 ^ f64Scale b / 2 ^ 1074

/-- `m / 2^k` rounded to the nearest integer, ties to the even one. -/
def roundHalfEven (m k : Nat) : Nat :=
  let q := m / 2 ^ k
  let r := 2 * (m % 2 ^ k)
  if 2 ^ k < r ∨ (r = 2 ^ k ∧ q % 2 = 1) then q + 1 else q

/-- The exponent of the last place kept of `m * 2^(p - 2148)`, on the same scale as `p`: 53 significant bits, but never
below the least subnormal, 2^-1074. -/
def f64LastPlace (m p : Nat) : Nat := max 1074 (m.log2 + p - 52)

/-- Bits 62:0 of `m * 2^(p - 2148)` rounded to nearest even. A carry out of the significand runs into the exponent
field, which is what rounding up to the next power of two is; values too large become infinity. -/
def f64RoundMagnitude (m p : Nat) : Nat :=
  if m = 0 then 0
  else
    let q := f64LastPlace m p
    let r := if p ≤ q then roundHalfEven m (q - p) else m * 2 ^ (p - q)
    min ((q - 1074) * 2 ^ 52 + r) (2047 * 2 ^ 52)

/-- A sign and bits 62:0. -/
def f64Make (neg : Bool) (magnitude : Nat) : Double := BitVec.ofBool neg ++ BitVec.ofNat 63 magnitude

/-- `f64(n)` of R11; exact for |n| < 2^53. -/
def f64OfInt (n : Int) : Double := f64Make (n < 0) (f64RoundMagnitude n.natAbs 2148)

/-- Negation flips bit 63 (R145). -/
def f64Neg (b : Double) : Double := b ^^^ f64NegZero

/-- The signed significand of a finite value at a scale `q` not above its own. -/
def f64SignedAt (b : Double) (q : Nat) : Int :=
  (if f64Sign b then -1 else 1) * ((f64Significand b * 2 ^ (f64Scale b - q) : Nat) : Int)

/-- `a ⊕ b` on finite operands: the exact sum at the smaller scale, rounded once. An exact zero is +0.0 unless both
operands are −0.0 (R148). -/
def f64AddFinite (a b : Double) : Double :=
  let q := min (f64Scale a) (f64Scale b)
  let z := f64SignedAt a q + f64SignedAt b q
  if z = 0 then f64Make (f64Sign a && f64Sign b) 0
  else f64Make (z < 0) (f64RoundMagnitude z.natAbs (q + 1074))

/-- `a ⊕ b` (R11). -/
def f64Add (a b : Double) : Double :=
  if f64Finite a && f64Finite b then f64AddFinite a b
  else if f64IsNaN a || f64IsNaN b then f64NaN
  else if f64Finite a then b
  else if f64Finite b then a
  else if f64Sign a = f64Sign b then a
  else f64NaN

/-- `a ⊗ b` (R11): the exact product, rounded once. -/
def f64Mul (a b : Double) : Double :=
  let neg := f64Sign a != f64Sign b
  if f64Finite a && f64Finite b then
    f64Make neg (f64RoundMagnitude (f64Significand a * f64Significand b) (f64Scale a + f64Scale b))
  else if f64IsNaN a || f64IsNaN b || f64IsZero a || f64IsZero b then f64NaN
  else f64Make neg (2047 * 2 ^ 52)

end Sys2Proof.Machine
end

