-- ==== Sys2Proof/Machine/SpectralTransform.lean ====
section
/-! DEFINITION. The Spectral Transform: the constants (R144), the cosine table (R145), the reference evaluation `DctRef`
bit for bit (R147), and the command DCT (R146). -/

namespace Sys2Proof.Machine

/-- c_r = RNE(cos(π·r/16)), r in [0, 8] (R144). -/
def cosConst : Nat → Double
  | 0 => 0x3FF0000000000000#64
  | 1 => 0x3FEF6297CFF75CB0#64
  | 2 => 0x3FED906BCF328D46#64
  | 3 => 0x3FEA9B66290EA1A3#64
  | 4 => 0x3FE6A09E667F3BCD#64
  | 5 => 0x3FE1C73B39AE68C8#64
  | 6 => 0x3FD87DE2A6AEA963#64
  | 7 => 0x3FC8F8B83C69A60B#64
  | _ => 0x0000000000000000#64

/-- A0 = RNE(sqrt(1/8)) (R144). -/
def alphaDC : Double := 0x3FD6A09E667F3BCD#64

/-- A1 = RNE(sqrt(2/8)) = 1/2 (R144). -/
def alphaAC : Double := 0x3FE0000000000000#64

/-- `C(n, u)` of R145: cos(π(2n+1)u/16) by exact symmetry. -/
def cosTable (n u : Nat) : Double :=
  let r := (2 * n + 1) * u % 32
  if r ≤ 8 then cosConst r
  else if r ≤ 16 then f64Neg (cosConst (16 - r))
  else if r ≤ 24 then f64Neg (cosConst (r - 16))
  else cosConst (32 - r)

/-- `alpha64(k)` of R147. -/
def alpha64 (k : Nat) : Double := if k = 0 then alphaDC else alphaAC

/-- The term t of R147 for ix, iy at frequencies x, y: (f64(G[iy][ix] − 128) ⊗ C[ix][x]) ⊗ C[iy][y]. -/
def dctTerm (g : BlockGrid) (x y : Nat) (ix iy : Fin 8) : Double :=
  f64Mul (f64Mul (f64OfInt (g[8 * iy.val + ix.val].toInt - 128)) (cosTable ix x)) (cosTable iy y)

/-- acc of R147: the terms added to +0.0, ix outer and iy inner. -/
def dctSum (g : BlockGrid) (x y : Nat) : Double :=
  (List.finRange 8).foldl (fun acc ix => (List.finRange 8).foldl (fun acc iy => f64Add acc (dctTerm g x y ix iy)) acc)
    (f64OfInt 0)

/-- R[x][y] of R147: (alpha64(x) ⊗ alpha64(y)) ⊗ acc. -/
def dctCoeff (g : BlockGrid) (x y : Nat) : Double := f64Mul (f64Mul (alpha64 x) (alpha64 y)) (dctSum g x y)

/-- `DctRef(G)` of R147: entry n is R[n // 8][n mod 8] (R13). -/
def dctRef (g : BlockGrid) : CoeffGrid := Vector.ofFn fun n : Fin 64 => dctCoeff g (n.val / 8) (n.val % 8)

/-- DCT (R146). -/
def execDct (s : State) : Host.Outcome State Fault Refusal :=
  complete 0#2 (fun _ =>
    match s.bg with
    | none => .error ⟨.noData, 0#2⟩
    | some g => .ok (commitCoeffGrid (dctRef g) s)) s

end Sys2Proof.Machine
end

