-- ==== Sys2Proof/Machine/Zigzag.lean ====
section
/-! DEFINITION. The Zigzag Reorderer: the construction (R161), the ROM (R160), the reordering (R164, R165) and the commands
ZZGEN (R163) and REORDER (R165). -/

namespace Sys2Proof.Machine

/-- Diagonal `i` of the size-m zigzag, in the order it is written (R161). -/
def zigzagDiagonal (m i : Nat) : List Nat :=
  let lo := i + 1 - m
  (List.range' lo (min i (m - 1) + 1 - lo)).map fun j => if i % 2 = 1 then j * (m - 1) + i else (i - j) * m + j

/-- `Zigzag(m)` of R161: diagonals 0 to 2m-2. -/
def zigzag (m : Nat) : List Nat := (List.range (2 * m - 1)).flatMap (zigzagDiagonal m)

/-- PERM8 as R160 lists it. -/
def perm8List : List Nat :=
  [0, 1, 8, 16, 9, 2, 3, 10, 17, 24, 32, 25, 18, 11, 4, 5] ++
  [12, 19, 26, 33, 40, 48, 41, 34, 27, 20, 13, 6, 7, 14, 21, 28] ++
  [35, 42, 49, 56, 57, 50, 43, 36, 29, 22, 15, 23, 30, 37, 44, 51] ++
  [58, 59, 52, 45, 38, 31, 39, 46, 53, 60, 61, 54, 47, 55, 62, 63]

/-- INV8 as R164 lists it: the zigzag position of linear cell 8·x + y. -/
def inv8List : List Nat :=
  [0, 1, 5, 6, 14, 15, 27, 28, 2, 4, 7, 13, 16, 26, 29, 42] ++
  [3, 8, 12, 17, 25, 30, 41, 43, 9, 11, 18, 24, 31, 40, 44, 53] ++
  [10, 19, 23, 32, 39, 45, 52, 54, 20, 22, 33, 38, 46, 51, 55, 60] ++
  [21, 34, 37, 47, 50, 56, 59, 61, 35, 36, 48, 49, 57, 58, 62, 63]

/-- The ROM ZZ_ROM (R38, R46): entry k is PERM8[k], six bits. -/
def perm8 (k : Fin 64) : BitVec 6 := BitVec.ofNat 6 (perm8List.getD k.val 0)

/-- V[k] = CG[PERM8[k] // 8][PERM8[k] mod 8], a bit copy (R165). The linear index of that cell is PERM8[k] itself (R13). -/
def reorder (g : CoeffGrid) : Descriptor := Vector.ofFn fun k : Fin 64 => g[(perm8 k).toNat]

/-- The 64 entries ZZGEN m commits: Zigzag(m), then 0 (R163). -/
def zigzagTable (m : Nat) : Vector (BitVec 6) 64 :=
  Vector.ofFn fun n : Fin 64 => if n.val < m * m then BitVec.ofNat 6 ((zigzag m).getD n.val 0) else 0#6

/-- ZZGEN m (R163). -/
def execZzgen (m : BitVec 4) (s : State) : Host.Outcome State Fault Refusal :=
  complete 0#2 (fun _ => do
    let k ← sizeOperand m
    return commitZigzag { m := m, entries := zigzagTable k } s) s

/-- REORDER ch (R165). -/
def execReorder (ch : BitVec 2) (s : State) : Host.Outcome State Fault Refusal :=
  complete ch (fun _ => do
    let c ← channelOperand ch
    match s.cg with
    | none => throw ⟨.noData, ch⟩
    | some g => return commitDescriptor c (reorder g) s) s

end Sys2Proof.Machine
end

