-- ==== Sys2Proof/Machine/Control.lean ====
section
/-! DEFINITION. The commands that are not a single datapath unit: NOP (R184), RUN_CH (R185) and RUN_FRAME (R186). -/

namespace Sys2Proof.Machine

/-- NOP (R184). -/
def execNop (s : State) : Host.Outcome State Fault Refusal := complete 0#2 (fun _ => .ok s) s

/-- RUN_CH ch (R185). -/
def execRunCh (ch : BitVec 2) (s : State) : Host.Outcome State Fault Refusal :=
  complete ch (fun l => do
    let c ← channelOperand ch
    let t ← reducePlane s l c
    let r := dctRef t
    return commitDescriptor c (reorder r) (commitCoeffGrid r (commitBlockGrid t s))) s

/-- RUN_FRAME (R186): every channel is validated before any sample is read. -/
def execRunFrame (s : State) : Host.Outcome State Fault Refusal :=
  complete 0#2 (fun l => do
    let _ ← validatePlane s.platform l 0
    let _ ← validatePlane s.platform l 1
    let _ ← validatePlane s.platform l 2
    let t0 ← reducePlane s l 0
    let t1 ← reducePlane s l 1
    let t2 ← reducePlane s l 2
    return commitDescriptor 2 (reorder (dctRef t2)) (commitDescriptor 1 (reorder (dctRef t1))
      (commitDescriptor 0 (reorder (dctRef t0)) (commitCoeffGrid (dctRef t2) (commitBlockGrid t2 s))))) s

end Sys2Proof.Machine
end

