-- ==== Sys2Proof/Machine/Dispatch.lean ====
section
/-! DEFINITION. One arm per command: `Execute` and `Complete` of R182 for a decoded command. -/

namespace Sys2Proof.Machine

def exec (i : Instr) (s : State) : Host.Outcome State Fault Refusal :=
  match i with
  | .nop => Sys2Proof.Machine.execNop s
  | .reduce ch => Sys2Proof.Machine.execReduce ch s
  | .dct => Sys2Proof.Machine.execDct s
  | .reorder ch => Sys2Proof.Machine.execReorder ch s
  | .runCh ch => Sys2Proof.Machine.execRunCh ch s
  | .runFrame => Sys2Proof.Machine.execRunFrame s
  | .zzgen m => Sys2Proof.Machine.execZzgen m s

end Sys2Proof.Machine
end

