-- ==== Sys2Proof/Machine/Flags.lean ====
section
/-! DEFINITION. The flags as the Host reads them: STATUS (R27), LAST_ERR (R28), IRQ_STATUS (R29), IRQ_ENABLE (R30), CH_PRESENT
(R31), and the interrupt output (R220). CLD8 has no condition codes (R42). -/

namespace Sys2Proof.Machine

/-- STATUS, bit for bit as R27 concatenates it. -/
def statusWord (s : State) : Word :=
  0#12 ++ s.zzgenM ++ 0#9 ++ BitVec.ofBool (s.descValid 2) ++ BitVec.ofBool (s.descValid 1) ++ BitVec.ofBool (s.descValid 0)
    ++ 0#1 ++ BitVec.ofBool s.cgValid ++ BitVec.ofBool s.bgValid ++ BitVec.ofBool s.busy

/-- LAST_ERR, bit for bit as R28 concatenates it. -/
def lastErrWord (s : State) : Word := 0#14 ++ s.lastCh ++ s.lastOpcode ++ 0#4 ++ s.lastCode

/-- IRQ_STATUS (R29). -/
def irqStatusWord (s : State) : Word :=
  0#29 ++ BitVec.ofBool s.irqOverrun ++ BitVec.ofBool s.irqErr ++ BitVec.ofBool s.irqDone

/-- IRQ_ENABLE (R30). -/
def irqEnableWord (s : State) : Word := 0#29 ++ s.irqEn

/-- CH_PRESENT (R31). -/
def chPresentWord (s : State) : Word := 0#29 ++ s.chPresent

/-- The interrupt output `irq` (R220, R44): level-sensitive, a function of the current state. -/
def irqOutput (s : State) : Bool :=
  (s.irqDone && s.irqEn.getLsbD 0) || (s.irqErr && s.irqEn.getLsbD 1) || (s.irqOverrun && s.irqEn.getLsbD 2)

end Sys2Proof.Machine
end

