-- ==== Sys2Proof/Machine/Registers.lean ====
section
/-! DEFINITION. The register space (R23): which register an offset names, what a read returns and what a write does, for aligned
32-bit accesses (R60). No read changes the state (R64). -/

namespace Sys2Proof.Machine

/-- Half of a 64-bit entry: the word at the lower offset holds bits 31:0 (R63). -/
def halfWord (v : BitVec 64) (hi : Bool) : Word := if hi then v.extractLsb' 32 32 else v.extractLsb' 0 32

/-- Entry `n` of a 64-bit buffer through its window; a buffer with no committed result reads 0 (R36, R37, R40). -/
def windowWord (b : Option (Vector (BitVec 64) 64)) (n : Fin 64) (hi : Bool) : Word :=
  match b with
  | none => 0#32
  | some g => halfWord g[n.val] hi

/-- The ZZGEN window (R39): zext(ZZGEN[n]) when zzgen_m ≠ 0 and n < zzgen_m², else 0. -/
def zzgenWord (s : State) (n : Fin 64) : Word :=
  match s.zzgen with
  | none => 0#32
  | some t => if n.val < t.m.toNat * t.m.toNat then t.entries[n.val].setWidth 32 else 0#32

/-- The entry index of an offset in a window of 64 entries of 8 bytes. Every such window starts at a multiple of 0x200. -/
def entryIndex (o : Nat) : Fin 64 := ⟨o / 8 % 64, Nat.mod_lt _ (by decide)⟩

/-- The entry index of an offset in a window of 64 words. Both such windows start at a multiple of 0x100. -/
def wordIndex (o : Nat) : Fin 64 := ⟨o / 4 % 64, Nat.mod_lt _ (by decide)⟩

/-- The offset is that of the high word of an 8-byte entry. -/
def isHighWord (o : Nat) : Bool := o / 4 % 2 == 1

/-- The channel of a PLANE register's offset, 0x040 + 0x10·ch + … (R23). -/
def planeIndex (o : Nat) : Fin 3 := ⟨(o - 0x40) / 0x10 % 3, Nat.mod_lt _ (by decide)⟩

/-- The word a PLANE register reads (R32 to R35); `k` is the register's place in its group of four. -/
def planeWord (p : PlaneRegs) (k : Nat) : Word :=
  match k with
  | 0 => p.base
  | 1 => p.width.setWidth 32
  | 2 => p.height.setWidth 32
  | _ => p.stride

/-- A PLANE register written (R32 to R35): reserved bits are ignored. -/
def planeWrite (p : PlaneRegs) (k : Nat) (v : Word) : PlaneRegs :=
  match k with
  | 0 => { p with base := v }
  | 1 => { p with width := v.extractLsb' 0 16 }
  | 2 => { p with height := v.extractLsb' 0 16 }
  | _ => { p with stride := v }

/-- The offset is one of a PLANE register (R23). -/
def isPlaneOffset (o : Nat) : Bool := 0x40 ≤ o && o < 0x70

/-- The control and status registers, 0x000 to 0x020 (R24 to R31). CTRL and CMD read 0. -/
def readControl (s : State) (o : Nat) : Word :=
  match o with
  | 0x000 => Config.idValue
  | 0x004 => Config.versionValue
  | 0x010 => statusWord s
  | 0x014 => lastErrWord s
  | 0x018 => irqStatusWord s
  | 0x01C => irqEnableWord s
  | 0x020 => chPresentWord s
  | _ => 0#32

/-- `RegRead(off)` for an aligned offset (R23): the control registers, the PLANE registers, the six windows; every other
offset is reserved and reads 0 (R41). -/
def regRead (s : State) (off : BitVec 12) : Word :=
  let o := off.toNat
  if o < 0x40 then readControl s o
  else if isPlaneOffset o then planeWord (s.plane (planeIndex o)) (o / 4 % 4)
  else if o < 0x200 then 0#32
  else if o < 0x400 then windowWord s.bg (entryIndex o) (isHighWord o)
  else if o < 0x600 then windowWord s.cg (entryIndex o) (isHighWord o)
  else if o < 0x700 then (perm8 (wordIndex o)).setWidth 32
  else if o < 0x800 then zzgenWord s (wordIndex o)
  else if o < 0xA00 then windowWord s.desc[0] (entryIndex o) (isHighWord o)
  else if o < 0xC00 then windowWord s.desc[1] (entryIndex o) (isHighWord o)
  else if o < 0xE00 then windowWord s.desc[2] (entryIndex o) (isHighWord o)
  else 0#32

/-- `RegWrite(off, v)` for an aligned offset (R23): CTRL (R25), CMD (R26), IRQ_STATUS (R29), IRQ_ENABLE (R30), CH_PRESENT (R31), the
PLANE registers (R32 to R35); a write anywhere else is ignored (R41, R60). -/
def regWrite (s : State) (off : BitVec 12) (v : Word) : State :=
  let o := off.toNat
  if isPlaneOffset o then
    { s with planes := s.planes.set (planeIndex o).val (planeWrite (s.plane (planeIndex o)) (o / 4 % 4) v) }
  else
    match o with
    | 0x008 => if v.getLsbD 0 then resetDevice s else s
    | 0x00C => issue v s
    | 0x018 => clearIrq v s
    | 0x01C => { s with irqEn := v.extractLsb' 0 3 }
    | 0x020 => { s with chPresent := v.extractLsb' 0 3 }
    | _ => s

end Sys2Proof.Machine
end

