-- ==== Sys2Proof/Machine/HostAgent.lean ====
section
/-! DEFINITION. The Host's step (R7, R60, R99): one access of its program. Also the program lines of R99 and R100 and
the accesses each stands for. -/

namespace Sys2Proof.Machine

/-- A register access is legal when it is 32 bits wide at a multiple of 4; any other gets an error response and has no effect (R61),
which is a fault of the Host's step (log 9). -/
def registerAccess (off : BitVec 12) (bits : Nat) (t : State) : Host.Outcome State Fault Refusal :=
  if bits ≠ 32 then .fault (.registerWidth off bits)
  else if off.toNat % 4 ≠ 0 then .fault (.registerMisaligned off)
  else .next t

/-- `name <- {hi, lo}`, the last part of `RD64 off -> name` (R100, R63): the value read last is the high word, the one before it the
low word. With fewer than two values read, which no RD64 line leads to, there is nothing to form (log 19). -/
def joinReads (off : BitVec 12) (s : State) : State :=
  match s.hostReads with
  | (_, hi) :: (_, lo) :: _ => { s with hostWides := (off, hi ++ lo) :: s.hostWides }
  | _ => s

/-- One access, `s` being the state with the access already taken off the Host's program, except that a POLL whose
condition does not hold stays the next access (R99). -/
def hostAccess (op : HostOp) (s : State) : Host.Outcome State Fault Refusal :=
  match op with
  | .regRead off bits => registerAccess off bits { s with hostReads := (off, regRead s off) :: s.hostReads }
  | .regWrite off bits v => registerAccess off bits (regWrite s off v)
  | .poll off mask val =>
    registerAccess off 32 (if regRead s off &&& mask = val then s else { s with hostProgram := op :: s.hostProgram })
  | .join off => .next (joinReads off s)
  | .readBeyond off => .fault (.registerOutside off)
  | .mem8 a b => .next (writeSample a.toNat b s)

/-- The Host's turn: its next access, or nothing when its program has ended. -/
def hostStep (s : State) : Host.Outcome State Fault Refusal :=
  match s.hostProgram with
  | [] => .next s
  | op :: rest => hostAccess op { s with hostProgram := rest }

/-- A line of a Host program, in the notation of R99 and R100. -/
inductive HostLine where
  | w32 (off : BitVec 12) (v : Word)
  | r32 (off : BitVec 12)
  | poll (off : BitVec 12) (mask : Word) (val : Word)
  | mem8 (addr : BitVec 32) (b : Byte)
  | fill (addr : BitVec 32) (n : Nat) (b : Byte)
  | issue (i : Instr)
  | wait
  | clrIrq
  | sReset
  | setPlane (c : Fin 3) (b : Word) (w : Word) (h : Word) (s : Word)
  | present (mask : Word)
  | rd64 (off : BitVec 12)
  deriving DecidableEq, Repr

/-- The second read of `RD64 off`, at off + 4 (R100). DESIGN CHOICE (log 19): at the last word of the register space, off = 0xFFC, that
offset is 0x1000, which R60 does not hold and of which no rule speaks; the read is then one outside the register space. -/
def highWordRead (off : BitVec 12) : HostOp :=
  if off.toNat + 4 < 4096 then .regRead (off + 4#12) 32 else .readBeyond (off.toNat + 4)

/-- The accesses a line stands for (R99, R100). DESIGN CHOICE (log 17): a FILL that runs past address 0xFFFFFFFF goes on at 0. -/
def HostLine.expand : HostLine → List HostOp
  | .w32 off v => [.regWrite off 32 v]
  | .r32 off => [.regRead off 32]
  | .poll off mask val => [.poll off mask val]
  | .mem8 addr b => [.mem8 addr b]
  | .fill addr n b => (List.range n).map fun i => .mem8 (addr + BitVec.ofNat 32 i) b
  | .issue i => [.regWrite 0x00C#12 32 (encode i)]
  | .wait => [.poll 0x010#12 0x1#32 0x0#32]
  | .clrIrq => [.regWrite 0x018#12 32 0x7#32]
  | .sReset => [.regWrite 0x008#12 32 0x1#32]
  | .setPlane c b w h s =>
    [.regWrite (BitVec.ofNat 12 (0x040 + 0x10 * c.val)) 32 b, .regWrite (BitVec.ofNat 12 (0x044 + 0x10 * c.val)) 32 w,
     .regWrite (BitVec.ofNat 12 (0x048 + 0x10 * c.val)) 32 h, .regWrite (BitVec.ofNat 12 (0x04C + 0x10 * c.val)) 32 s]
  | .present mask => [.regWrite 0x020#12 32 mask]
  | .rd64 off => [.regRead off 32, highWordRead off, .join off]

/-- The accesses of a Host program, in order (R99). -/
def hostAccesses (lines : List HostLine) : List HostOp := lines.flatMap HostLine.expand

end Sys2Proof.Machine
end

