-- ==== Sys2Proof/Machine/Step.lean ====
section
/-! DEFINITION. One step of the machine: the agent whose turn it is moves (R7, R72, R217). -/

namespace Sys2Proof.Machine

/-- The Engine's step (R182): decode lat_cmd and complete. A word that selects no row ends in ILLEGAL_CMD (R96). Not enabled
while idle: then nothing happens. -/
def engineStep (s : State) : Host.Outcome State Fault Refusal :=
  match s.latch with
  | none => .next s
  | some l =>
    match decode l.cmd with
    | .ok i => exec i s
    | .error _ => .next (takeError l.cmd ⟨.illegalCmd, 0#2⟩ s)

/-- The move of an agent. -/
def turnStep (t : Turn) (s : State) : Host.Outcome State Fault Refusal :=
  match t with
  | .host => hostStep s
  | .engine => engineStep s
  | .hardReset => .next (resetDevice s)

/-- One step. The schedule says who moves. When it is used up, the Engine completes what is in flight, which is the fairness of
R270 and rests on SAMPLE_MEM_LIVENESS; otherwise the Host goes on (log 1, log 3). -/
def step (s : State) : Host.Outcome State Fault Refusal :=
  match s.schedule with
  | t :: rest => turnStep t { s with schedule := rest }
  | [] => if s.busy && s.platform.sampleMemLive then engineStep s else hostStep s

/-- The state in which the command word with bits `w` is in flight, accepted with the live registers (R180), and the Engine moves
next: the very next step runs it. This is acceptance with whatever was in flight put aside (log 2). -/
def State.withFetchWord (s : State) (nbits w : Nat) : State :=
  { s with latch := some (captureLatch (tableWord nbits w) s), schedule := .engine :: s.schedule }

end Sys2Proof.Machine
end

