-- ==== Sys2Proof/Safety.lean ====
section
/-! DEFINITION. The words claims are made in: the invariant of the machine (R49), what a legal Host access is (R61), and the
geometry a plane command accepts (R123). -/

namespace Sys2Proof.Machine

/-- Every entry is an integer in [0, 255] (R49, R128). -/
def GridInRange (g : BlockGrid) : Prop := ∀ n : Fin 64, g[n.val].toNat ≤ 255

/-- Every entry is a finite binary64 value that is not −0.0 (R49, R148). -/
def FiniteNotNegZero (v : Vector Double 64) : Prop := ∀ n : Fin 64, f64Finite v[n.val] = true ∧ v[n.val] ≠ f64NegZero

/-- What holds at reset and after every step: memory is canonical, the parameters are legal, a valid buffer holds what a
command commits (R49), the ZZGEN table is that of its size (R39, R163), and no code above 7 is reported (R210). -/
structure Inv (s : State) : Prop where
  mem      : Memory.wf s.mem
  platform : Platform.wf s.platform
  bg       : ∀ g, s.bg = some g → GridInRange g
  cg       : ∀ v, s.cg = some v → ∃ g, GridInRange g ∧ v = dctRef g
  desc     : ∀ (ch : Fin 3) (d : Descriptor), s.desc[ch.val] = some d → ∃ g, GridInRange g ∧ d = reorder (dctRef g)
  zzgen    : ∀ t, s.zzgen = some t → sizeOk t.m = true ∧ t.entries = zigzagTable t.m.toNat
  code     : s.lastCode.toNat ≤ 7

/-- A Host access that stops nothing: a register access of 32 bits at a multiple of 4 (R61) inside the register space (R60; log 19),
a sample write, or a step of the Host alone. -/
def HostOp.legal : HostOp → Bool
  | .regRead off bits => bits == 32 && off.toNat % 4 == 0
  | .regWrite off bits _ => bits == 32 && off.toNat % 4 == 0
  | .poll off _ _ => off.toNat % 4 == 0
  | .join _ => true
  | .readBeyond _ => false
  | .mem8 _ _ => true

/-- The plane of channel `c`, as latched, passes R123: present, at least 8 by 8, stride not below the width, inside the sample memory. -/
structure PlaneOk (pl : Platform) (l : Latch) (c : Fin 3) : Prop where
  present : l.isPresent c = true
  width   : 8 ≤ (l.plane c).width.toNat
  height  : 8 ≤ (l.plane c).height.toNat
  stride  : (l.plane c).width.toNat ≤ (l.plane c).stride.toNat
  inside  : (l.plane c).base.toNat + ((l.plane c).height.toNat - 1) * (l.plane c).stride.toNat
              + ((l.plane c).width.toNat - 1) < pl.sampleMemSize

/-- Address `a` is that of a sample (x, y) of the plane (R67, R68). -/
def InReadSet (p : PlaneRegs) (a : Nat) : Prop :=
  ∃ x y, x < p.width.toNat ∧ y < p.height.toNat ∧ a = p.base.toNat + y * p.stride.toNat + x

/-- No sample of the plane gets a read fault from the platform (R66). -/
def ReadsClean (pl : Platform) (p : PlaneRegs) : Prop := ∀ a, InReadSet p a → sampleReadFault pl a = false

/-- The code of the first check of R123 that the plane of channel `c` fails, in R123's order; meant for planes that fail one. -/
def planeErrorCode (l : Latch) (c : Fin 3) : BitVec 4 :=
  if l.isPresent c = false then 5#4
  else if (l.plane c).width.toNat = 0 ∨ (l.plane c).height.toNat = 0 then 5#4
  else if (l.plane c).stride.toNat < (l.plane c).width.toNat then 5#4
  else if (l.plane c).width.toNat < 8 ∨ (l.plane c).height.toNat < 8 then 6#4
  else 7#4

/-- `g` holds, at row j and column i, the truncated mean of the samples of cell (i, j) of channel `c`'s latched plane
(R122, R124, R125): their sum divided by their number. -/
def IsBlockGridOf (s : State) (l : Latch) (c : Fin 3) (g : BlockGrid) : Prop :=
  ∀ i j : Fin 8,
    g[8 * j.val + i.val].toNat =
      (∑ y ∈ Finset.Ico (edge j.val (l.plane c).height.toNat) (edge (j.val + 1) (l.plane c).height.toNat),
        ∑ x ∈ Finset.Ico (edge i.val (l.plane c).width.toNat) (edge (i.val + 1) (l.plane c).width.toNat),
          (sampleByte s l c ((l.plane c).base.toNat + y * (l.plane c).stride.toNat + x)).toNat) /
      ((edge (j.val + 1) (l.plane c).height.toNat - edge j.val (l.plane c).height.toNat) *
        (edge (i.val + 1) (l.plane c).width.toNat - edge i.val (l.plane c).width.toNat))

/-- The state an error completion leaves, written out (R214, R218): everything is as in `s` except busy, LAST_ERR and irq_err. -/
def errorState (s : State) (w : Word) (code : BitVec 4) (ch : BitVec 2) : State :=
  { s with latch := none, lastCode := code, lastOpcode := w.extractLsb' 0 8, lastCh := ch, irqErr := true }

/-- The state a success completion leaves, written out, from the state `t` with the commits applied (R182, R183). The draw index
is the model's own counter. -/
def successState (t : State) (w : Word) (ch : BitVec 2) : State :=
  { t with
    latch := none
    lastCode := 0
    lastOpcode := w.extractLsb' 0 8
    lastCh := ch
    irqDone := true
    drawIndex := t.drawIndex + 1 }

end Sys2Proof.Machine
end

