-- ==== Sys2Proof/Certificates/Slice0/Obligations.lean ====
section
/-! DEFINITION. The statements for the provers. Each docstring names the rules of spec/ it formalises. -/

open Sys2Proof Sys2Proof.Machine

/-! ### Command words -/

/-- Words written out from R94 and R98 decode to the commands they stand for, and four words of 95's ER-5 to none. -/
def Obligations.WorkedWordsDecode : Prop :=
  decode 0x00000000#32 = .ok .nop ∧ decode 0x00000101#32 = .ok (.reduce 1#2) ∧ decode 0x00000002#32 = .ok .dct ∧
  decode 0x00000203#32 = .ok (.reorder 2#2) ∧ decode 0x00000204#32 = .ok (.runCh 2#2) ∧
  decode 0x00000005#32 = .ok .runFrame ∧ decode 0x00030006#32 = .ok (.zzgen 3#4) ∧
  decode 0x00080006#32 = .ok (.zzgen 8#4) ∧ decode 0x00000007#32 = .error (.reservedOpcode 0x07#8) ∧
  decode 0x00000100#32 = .error (.reservedBits 0x00#8) ∧ decode 0x00000704#32 = .error (.reservedBits 0x04#8) ∧
  decode 0x00030106#32 = .error (.reservedBits 0x06#8)

/-- R92, R95, R98: decoding an encoded command gives it back, whatever its operand bits; the operand check lets exactly the
well-formed ones through. -/
def Obligations.DecodeOfEncode : Prop :=
  (∀ i : Instr, decode (encode i) = .ok i) ∧
  (∀ i : Instr, i.WellFormed ↔ decodeCommand (encode i) = .ok i)

/-- R92, R98: every word that decodes is the encoding of what it decodes to, so no bit is dropped. -/
def Obligations.EncodeOfDecode : Prop := ∀ (w : Word) (i : Instr), decode w = .ok i → encode i = w

/-- R95, `Decode(w)` line by line, on the word as a number. -/
def Obligations.DecodeFollowsItsPseudocode : Prop :=
  ∀ w : Word,
    decodeCommand w =
      (let n := w.toNat
       let op := n % 256
       if op = 0x00 ∨ op = 0x02 ∨ op = 0x05 then
         if n / 2 ^ 8 ≠ 0 then .error ⟨.illegalCmd, 0⟩
         else .ok (if op = 0x00 then .nop else if op = 0x02 then .dct else .runFrame)
       else if op = 0x01 ∨ op = 0x03 ∨ op = 0x04 then
         if n / 2 ^ 10 ≠ 0 then .error ⟨.illegalCmd, 0⟩
         else
           let ch := n / 2 ^ 8 % 4
           if 3 ≤ ch then .error ⟨.badChannel, BitVec.ofNat 2 ch⟩
           else .ok (if op = 0x01 then .reduce (BitVec.ofNat 2 ch) else if op = 0x03 then .reorder (BitVec.ofNat 2 ch)
                     else .runCh (BitVec.ofNat 2 ch))
       else if op = 0x06 then
         if n / 2 ^ 8 % 2 ^ 8 ≠ 0 ∨ n / 2 ^ 20 ≠ 0 then .error ⟨.illegalCmd, 0⟩
         else
           let m := n / 2 ^ 16 % 16
           if m = 0 ∨ 8 < m then .error ⟨.badParam, 0⟩ else .ok (.zzgen (BitVec.ofNat 4 m))
       else .error ⟨.illegalCmd, 0⟩)

/-- R94: a word selects a row exactly when (w & mask) = match, with CH and M as they stand in the word. -/
def Obligations.WordSelectsItsRow : Prop :=
  ∀ w : Word,
    (decode w = .ok .nop ↔ w &&& 0xFFFFFFFF#32 = 0x00000000#32) ∧
    (decode w = .ok (.reduce (w.extractLsb' 8 2)) ↔ w &&& 0xFFFFFCFF#32 = 0x00000001#32) ∧
    (decode w = .ok .dct ↔ w &&& 0xFFFFFFFF#32 = 0x00000002#32) ∧
    (decode w = .ok (.reorder (w.extractLsb' 8 2)) ↔ w &&& 0xFFFFFCFF#32 = 0x00000003#32) ∧
    (decode w = .ok (.runCh (w.extractLsb' 8 2)) ↔ w &&& 0xFFFFFCFF#32 = 0x00000004#32) ∧
    (decode w = .ok .runFrame ↔ w &&& 0xFFFFFFFF#32 = 0x00000005#32) ∧
    (decode w = .ok (.zzgen (w.extractLsb' 16 4)) ↔ w &&& 0xFFF0FFFF#32 = 0x00000006#32)

/-! ### The life of a command -/

/-- R182 and the model's `step`: when the Engine moves, by its turn or by fairness, with a word in flight that decodes to `i`, the
step is `exec i`; and the word `withFetchWord` places is what the next step runs. -/
def Obligations.StepRunsTheDecodedCommand : Prop :=
  (∀ (s : State) (l : Latch) (i : Instr) (rest : List Turn), s.latch = some l → decode l.cmd = .ok i →
    s.schedule = .engine :: rest → step s = exec i { s with schedule := rest }) ∧
  (∀ (s : State) (l : Latch) (i : Instr), s.latch = some l → decode l.cmd = .ok i → s.schedule = [] →
    s.platform.sampleMemLive = true → step s = exec i s) ∧
  (∀ (s : State) (w : Nat) (i : Instr), decodeTableWord 32 w = some i →
    step (s.withFetchWord 32 w) = exec i { s with latch := some (captureLatch (tableWord 32 w) s) })

/-- R95, R96, R214, R215: a word that is no command, or whose operand is out of range, is not refused: it ends in an error
completion with the code and channel of `Decode`, and nothing else changes. -/
def Obligations.BadWordsEndInErrorCompletion : Prop :=
  ∀ (s : State) (l : Latch) (e : CmdError), s.latch = some l → decodeCommand l.cmd = .error e →
    engineStep s = .next (errorState s l.cmd (ErrorCode.bits e.code) e.ch)

/-- R182: whatever the word in flight and the state, the Engine's step completes: it answers a next state, and that one is idle. -/
def Obligations.EngineStepAlwaysCompletes : Prop :=
  ∀ (s : State) (l : Latch), s.latch = some l → ∃ t, engineStep s = .next t ∧ t.latch = none

/-- R180, R181: a CMD write while idle captures the word, every PLANE register and CH_PRESENT and sets busy; while busy it
sets irq_overrun and nothing else. The empty `overwritten` list is the model's own (log 8). -/
def Obligations.CommandWriteIsAcceptedOrOverruns : Prop :=
  ∀ (s : State) (w : Word),
    (s.latch = none → regWrite s 0x00C#12 w =
      { s with latch := some { cmd := w, planes := s.planes, present := s.chPresent, overwritten := [] } }) ∧
    (∀ l, s.latch = some l → regWrite s 0x00C#12 w = { s with irqOverrun := true })

/-- R270, resting on SAMPLE_MEM_LIVENESS and on the model's rule that the Engine moves when the schedule is used up (log 1, log 3):
whatever the schedule still holds, the machine is idle at some point, at the latest one step after the schedule's end. -/
def Obligations.EngineIsEventuallyIdle : Prop :=
  ∀ s : State, s.platform.sampleMemLive = true → (∀ op ∈ s.hostProgram, op.legal = true) →
    ∃ k t, k ≤ s.schedule.length + 1 ∧ Sys2Proof.core.run k s = .next t ∧ State.busy t = false

/-- R72, R217, bullet by bullet: the two orders of a CMD write, of a SOFT_RESET and of a W1C write against the completion
of the command in flight. -/
def Obligations.BothOrdersOfAccessAndCompletion : Prop :=
  ∀ (s : State) (l : Latch) (rest : List Turn) (p : List HostOp) (v : Word), s.latch = some l →
    -- a CMD write: overrun before the completion, acceptance after it
    (∃ t, Sys2Proof.core.run 2 { s with hostProgram := .regWrite 0x00C#12 32 v :: p, schedule := .host :: .engine :: rest }
        = .next t ∧ t.latch = none ∧ t.irqOverrun = true) ∧
    (∃ t, Sys2Proof.core.run 2 { s with hostProgram := .regWrite 0x00C#12 32 v :: p, schedule := .engine :: .host :: rest }
        = .next t ∧ (∃ l', t.latch = some l' ∧ l'.cmd = v) ∧ t.irqOverrun = s.irqOverrun) ∧
    -- a SOFT_RESET: aborts the command before the completion, resets its results after it
    (v.getLsbD 0 = true →
      Sys2Proof.core.run 2 { s with hostProgram := .regWrite 0x008#12 32 v :: p, schedule := .host :: .engine :: rest }
        = .next (resetDevice { s with hostProgram := p, schedule := rest }) ∧
      ∃ n, Sys2Proof.core.run 2 { s with hostProgram := .regWrite 0x008#12 32 v :: p, schedule := .engine :: .host :: rest }
        = .next (resetDevice { s with hostProgram := p, schedule := rest, drawIndex := n })) ∧
    -- a W1C write: the completion's bit is 1 if the write comes first, and cleared if it comes after
    (∃ t, Sys2Proof.core.run 2 { s with hostProgram := .regWrite 0x018#12 32 v :: p, schedule := .host :: .engine :: rest }
        = .next t ∧ (t.lastCode = 0 → t.irqDone = true) ∧ (t.lastCode ≠ 0 → t.irqErr = true)) ∧
    (∃ t, Sys2Proof.core.run 2 { s with hostProgram := .regWrite 0x018#12 32 v :: p, schedule := .engine :: .host :: rest }
        = .next t ∧ (v.getLsbD 0 = true → t.irqDone = false) ∧ (v.getLsbD 1 = true → t.irqErr = false))

/-- R99, R100, R182: the Host lines `ISSUE i` and `WAIT`, from an idle machine with no schedule left, run the command and
end when it has completed. -/
def Obligations.IssueThenWaitRunsTheCommand : Prop :=
  ∀ (s : State) (i : Instr), s.latch = none → s.schedule = [] → s.platform.sampleMemLive = true →
    ∃ t, exec i { s with
            latch := some (captureLatch (encode i) s)
            hostProgram := [.poll 0x010#12 0x1#32 0x0#32] } = .next t ∧
      Sys2Proof.core.run 3 { s with hostProgram := hostAccesses [.issue i, .wait] } = .next { t with hostProgram := [] }

/-- R63, R64, R99, R100, R262: the Host line `RD64 off -> name`, from an idle machine with no schedule left (log 1), reads off and then
off + 4 and forms {hi, lo} (kept in `hostWides`, the model's own field, log 19). With a command in flight and its completion between the
two reads, the low word is from before it and the high word from after it. At the last word of the register space, the second read is
outside that space and the model stops (its choice, log 19). -/
def Obligations.Rd64ReadsTwoWordsAndJoinsThem : Prop :=
  ∀ (s : State) (off : BitVec 12), off.toNat % 4 = 0 →
    let prog : State := { s with hostProgram := hostAccesses [.rd64 off] }
    (off.toNat + 4 < 4096 →
      (s.latch = none → s.schedule = [] →
        Sys2Proof.core.run 3 prog = .next { s with
          hostProgram := []
          hostReads := (off + 4#12, regRead s (off + 4#12)) :: (off, regRead s off) :: s.hostReads
          hostWides := (off, regRead s (off + 4#12) ++ regRead s off) :: s.hostWides }) ∧
      ∀ l, s.latch = some l →
        ∃ t u, engineStep s = .next t ∧
          Sys2Proof.core.run 4 { prog with schedule := [.host, .engine, .host, .host] } = .next u ∧
          u.hostWides = (off, regRead t (off + 4#12) ++ regRead s off) :: s.hostWides) ∧
    (off = 0xFFC#12 → s.latch = none → s.schedule = [] →
      Sys2Proof.core.run 2 prog = .fault (.registerOutside 0x1000))

/-! ### The seven commands -/

/-- R184: NOP completes with success bookkeeping and commits nothing. -/
def Obligations.NopOnlyCompletes : Prop :=
  ∀ (s : State) (l : Latch), s.latch = some l → exec .nop s = .next (successState s l.cmd 0#2)

/-- R122, R124, R125, R126, R183: on a plane that passes R123 and whose reads do not fault, REDUCE commits to BG the truncated mean
of each of the 64 cells, row j and column i for cell (i, j), and changes nothing else but the completion's bookkeeping. -/
def Obligations.ReduceCommitsTheCellMeans : Prop :=
  ∀ (s : State) (l : Latch) (c : Fin 3), s.latch = some l → PlaneOk s.platform l c → ReadsClean s.platform (l.plane c) →
    ∃ g, IsBlockGridOf s l c g ∧
      exec (.reduce (chBits c)) s = .next (successState { s with bg := some g } l.cmd (chBits c))

/-- R123, R214: for REDUCE and RUN_CH the first check that fails, in R123's order, decides the error; nothing is committed. -/
def Obligations.FirstFailedPlaneCheckIsReported : Prop :=
  ∀ (s : State) (l : Latch) (c : Fin 3), s.latch = some l → ¬PlaneOk s.platform l c →
    exec (.reduce (chBits c)) s = .next (errorState s l.cmd (planeErrorCode l c) (chBits c)) ∧
    exec (.runCh (chBits c)) s = .next (errorState s l.cmd (planeErrorCode l c) (chBits c))

/-- R66, R124, R125: on a plane that passes R123, one read fault anywhere in its read set ends REDUCE and RUN_CH with BUS_ERROR (7)
for that channel, and nothing is committed. -/
def Obligations.ReadFaultIsBusError : Prop :=
  ∀ (s : State) (l : Latch) (c : Fin 3) (a : Nat), s.latch = some l → PlaneOk s.platform l c → InReadSet (l.plane c) a →
    sampleReadFault s.platform a = true →
      exec (.reduce (chBits c)) s = .next (errorState s l.cmd 7#4 (chBits c)) ∧
      exec (.runCh (chBits c)) s = .next (errorState s l.cmd 7#4 (chBits c))

/-- R95, R210, R215, R216: CH = 3 is BAD_CHANNEL recording 3, whatever else is wrong (REORDER 3 with no CG among them); M = 0 or
M > 8 is BAD_PARAM recording 0. -/
def Obligations.OperandOutOfRangeIsReportedFirst : Prop :=
  ∀ (s : State) (l : Latch), s.latch = some l →
    exec (.reduce 3#2) s = .next (errorState s l.cmd 2#4 3#2) ∧
    exec (.reorder 3#2) s = .next (errorState s l.cmd 2#4 3#2) ∧
    exec (.runCh 3#2) s = .next (errorState s l.cmd 2#4 3#2) ∧
    ∀ m : BitVec 4, m.toNat = 0 ∨ 8 < m.toNat → exec (.zzgen m) s = .next (errorState s l.cmd 3#4 0#2)

/-- R146: DCT commits DctRef(BG) to CG when BG is valid, and ends with NO_DATA (4), channel 0, when it is not. -/
def Obligations.DctCommitsDctRefOrNoData : Prop :=
  ∀ (s : State) (l : Latch), s.latch = some l →
    (∀ g, s.bg = some g → exec .dct s = .next (successState { s with cg := some (dctRef g) } l.cmd 0#2)) ∧
    (s.bg = none → exec .dct s = .next (errorState s l.cmd 4#4 0#2))

/-- R165: REORDER commits to DESC[ch] the entry of CG at (p // 8, p mod 8) for p = PERM8[k], bit for bit, when CG is valid;
it ends with NO_DATA (4) recording ch when it is not, and with BAD_CHANNEL (2) for CH = 3. -/
def Obligations.ReorderCommitsZigzagOrder : Prop :=
  ∀ (s : State) (l : Latch), s.latch = some l →
    (∀ (c : Fin 3) (v : CoeffGrid), s.cg = some v →
      ∃ d : Descriptor,
        (∀ k : Fin 64, v[8 * (perm8List.getD k.val 0 / 8) + perm8List.getD k.val 0 % 8]? = some d[k.val]) ∧
        exec (.reorder (chBits c)) s =
          .next (successState { s with desc := s.desc.set c.val (some d) } l.cmd (chBits c))) ∧
    (∀ c : Fin 3, s.cg = none → exec (.reorder (chBits c)) s = .next (errorState s l.cmd 4#4 (chBits c))) ∧
    exec (.reorder 3#2) s = .next (errorState s l.cmd 2#4 3#2)

/-- R164, R166: when CG is valid, REORDER ch leaves a DESC[ch] with DESC[ch][k] = CG[PERM8[k] // 8][PERM8[k] mod 8] and
CG[x][y] = DESC[ch][INV8[8·x + y]], and the two hold the same bit patterns equally often. -/
def Obligations.ReorderIsAPermutation : Prop :=
  ∀ (s : State) (l : Latch) (c : Fin 3) (v : CoeffGrid), s.latch = some l → s.cg = some v →
    ∃ (t : State) (d : Descriptor), exec (.reorder (chBits c)) s = .next t ∧ t.desc[c.val] = some d ∧
      (∀ k : Fin 64, v[8 * (perm8List.getD k.val 0 / 8) + perm8List.getD k.val 0 % 8]? = some d[k.val]) ∧
      (∀ x y : Fin 8, d[inv8List.getD (8 * x.val + y.val) 0]? = some v[8 * x.val + y.val]) ∧
      d.toList.Perm v.toList

/-- R163, R183: ZZGEN m with m in [1, 8] commits Zigzag(m) followed by zeros and sets zzgen_m. -/
def Obligations.ZzgenCommitsItsTable : Prop :=
  ∀ (s : State) (l : Latch) (m : BitVec 4), s.latch = some l → 1 ≤ m.toNat → m.toNat ≤ 8 →
    ∃ e : Vector (BitVec 6) 64,
      (∀ n : Fin 64, e[n.val].toNat = if n.val < m.toNat * m.toNat then (zigzag m.toNat).getD n.val 0 else 0) ∧
      exec (.zzgen m) s = .next (successState { s with zzgen := some { m := m, entries := e } } l.cmd 0#2)

/-- R162, for every m in [1, 8]: a bijection onto [0, m²); entry 0 is 0; the diagonal number never falls along the list; on an odd
diagonal the row rises and on an even one it falls. -/
def Obligations.ZigzagLaws : Prop :=
  ∀ m ∈ List.range' 1 8,
    (zigzag m).Perm (List.range (m * m)) ∧
    (zigzag m).head? = some 0 ∧
    ∀ pq ∈ (zigzag m).zip (zigzag m).tail,
      pq.1 / m + pq.1 % m ≤ pq.2 / m + pq.2 % m ∧
      (pq.1 / m + pq.1 % m = pq.2 / m + pq.2 % m →
        if (pq.1 / m + pq.1 % m) % 2 = 1 then pq.1 / m < pq.2 / m else pq.2 / m < pq.1 / m)

/-- R160: the written-out table PERM8 is Zigzag(8), and it is what the ZZ_ROM window reads in every state, at reset too; entry k at
index k. -/
def Obligations.RomHoldsZigzagEight : Prop :=
  perm8List = zigzag 8 ∧ ∀ k : Fin 64, (perm8 k).toNat = (zigzag 8).getD k.val 64 ∧
    ∀ s : State, (regRead s (BitVec.ofNat 12 (0x600 + 4 * k.val))).toNat = (zigzag 8).getD k.val 64

/-- R185, R183: on a plane that passes R123 and whose reads do not fault, RUN_CH commits the block grid, its transform and the
transform's reordering into DESC[ch], with one completion. -/
def Obligations.RunChCommitsAllThreeResults : Prop :=
  ∀ (s : State) (l : Latch) (c : Fin 3), s.latch = some l → PlaneOk s.platform l c → ReadsClean s.platform (l.plane c) →
    ∃ g, IsBlockGridOf s l c g ∧
      exec (.runCh (chBits c)) s =
        .next (successState
          { s with bg := some g, cg := some (dctRef g), desc := s.desc.set c.val (some (reorder (dctRef g))) }
          l.cmd (chBits c))

/-- R185, corner cases: from any state, RUN_CH ch leaves the same BG, CG and DESC as REDUCE ch, then DCT, then REORDER ch, each run to
completion. Each word is placed by `withFetchWord`, the model's acceptance, which puts aside what was in flight (log 2). -/
def Obligations.RunChEqualsItsThreeCommands : Prop :=
  ∀ (s : State) (c : Fin 3), PlaneOk s.platform (captureLatch 0 s) c → ReadsClean s.platform (s.plane c) →
    ∃ t1 t2 t3 u,
      step (s.withFetchWord 32 (encode (.reduce (chBits c))).toNat) = .next t1 ∧
      step (t1.withFetchWord 32 (encode .dct).toNat) = .next t2 ∧
      step (t2.withFetchWord 32 (encode (.reorder (chBits c))).toNat) = .next t3 ∧
      step (s.withFetchWord 32 (encode (.runCh (chBits c))).toNat) = .next u ∧
      u.bg = t3.bg ∧ u.cg = t3.cg ∧ u.desc = t3.desc ∧ u.lastCode = 0 ∧ t3.lastCode = 0

/-- R186, R183: when all three planes pass R123 and no read faults, RUN_FRAME commits all three descriptors at once and leaves BG
and CG with channel 2's grids. -/
def Obligations.RunFrameCommitsThreeDescriptors : Prop :=
  ∀ (s : State) (l : Latch), s.latch = some l →
    (∀ c : Fin 3, PlaneOk s.platform l c ∧ ReadsClean s.platform (l.plane c)) →
    ∃ g : Fin 3 → BlockGrid, (∀ c, IsBlockGridOf s l c (g c)) ∧
      exec .runFrame s =
        .next (successState
          { s with
            bg := some (g 2)
            cg := some (dctRef (g 2))
            desc := #v[some (reorder (dctRef (g 0))), some (reorder (dctRef (g 1))), some (reorder (dctRef (g 2)))] }
          l.cmd 0#2)

/-- R186, R187, R215: RUN_FRAME reports the lowest-numbered plane that fails R123, whatever sample memory holds and wherever the
platform faults, and commits nothing. -/
def Obligations.RunFrameReportsTheFirstBadPlane : Prop :=
  ∀ (s : State) (l : Latch) (c : Fin 3), s.latch = some l → (∀ d : Fin 3, d < c → PlaneOk s.platform l d) →
    ¬PlaneOk s.platform l c →
    exec .runFrame s = .next (errorState s l.cmd (planeErrorCode l c) (chBits c)) ∧
    ∀ (m : Memory) (r : List AddrRange),
      exec .runFrame { s with mem := m, platform := { s.platform with faultRanges := r } } =
        .next (errorState { s with mem := m, platform := { s.platform with faultRanges := r } } l.cmd (planeErrorCode l c)
          (chBits c))

/-- R186, R187, R215: when all planes pass R123 but some read faults, RUN_FRAME ends with BUS_ERROR (7) for the lowest-numbered channel
that has one, and commits nothing. -/
def Obligations.RunFrameReadFaultIsBusError : Prop :=
  ∀ (s : State) (l : Latch) (c : Fin 3) (a : Nat), s.latch = some l → (∀ d : Fin 3, PlaneOk s.platform l d) →
    (∀ d : Fin 3, d < c → ReadsClean s.platform (l.plane d)) → InReadSet (l.plane c) a → sampleReadFault s.platform a = true →
      exec .runFrame s = .next (errorState s l.cmd 7#4 (chBits c))

/-! ### What completions record and what they leave alone -/

/-- R214, R218: an error completion of any command changes only LAST_ERR, irq_err and busy, and records the opcode byte of the word
in flight. -/
def Obligations.ErrorsChangeOnlyLastErrAndIrqErr : Prop :=
  ∀ (i : Instr) (s t : State) (l : Latch), s.latch = some l → exec i s = .next t → t.lastCode ≠ 0 →
    t = errorState s l.cmd t.lastCode t.lastCh

/-- R183: a success completion records code 0, the opcode byte of the word in flight and the channel operand of REDUCE, REORDER and
RUN_CH (0 for the others), sets irq_done, clears busy, and leaves irq_err and irq_overrun. -/
def Obligations.SuccessRecordsItsCommand : Prop :=
  ∀ (i : Instr) (s t : State) (l : Latch), s.latch = some l → exec i s = .next t → t.lastCode = 0 →
    t.lastOpcode = l.cmd.extractLsb' 0 8 ∧
    t.lastCh = (match i with
      | .reduce ch => ch
      | .reorder ch => ch
      | .runCh ch => ch
      | .nop => 0
      | .dct => 0
      | .runFrame => 0
      | .zzgen _ => 0) ∧
    t.irqDone = true ∧ t.irqErr = s.irqErr ∧ t.irqOverrun = s.irqOverrun ∧ t.latch = none

/-- R20, R42, R129, R182: FRAME of all seven commands. No command changes irq_overrun, the enables, CH_PRESENT, the PLANE registers, any
byte of sample memory, the platform, the Host or the schedule. -/
def Obligations.CommandsLeaveTheRestAlone : Prop :=
  ∀ (i : Instr) (s t : State), exec i s = .next t →
    t.irqOverrun = s.irqOverrun ∧ t.irqEn = s.irqEn ∧ t.chPresent = s.chPresent ∧ t.planes = s.planes ∧
    (∀ a, Memory.read t.mem a = Memory.read s.mem a) ∧ t.mem = s.mem ∧ t.platform = s.platform ∧
    t.hostProgram = s.hostProgram ∧ t.hostReads = s.hostReads ∧ t.hostWides = s.hostWides ∧ t.schedule = s.schedule

/-- R126, R146, R163, R165, R184, R185, R186: FRAME of the buffers. Each command writes only the buffers its rule names: NOP none, REDUCE
BG, DCT CG, REORDER DESC[ch], ZZGEN the ZZGEN table, RUN_CH BG, CG and DESC[ch], RUN_FRAME BG, CG and DESC. -/
def Obligations.CommandsWriteOnlyTheirBuffers : Prop :=
  ∀ (s t : State),
    (exec .nop s = .next t → t.bg = s.bg ∧ t.cg = s.cg ∧ t.desc = s.desc ∧ t.zzgen = s.zzgen) ∧
    (∀ ch, exec (.reduce ch) s = .next t → t.cg = s.cg ∧ t.desc = s.desc ∧ t.zzgen = s.zzgen) ∧
    (exec .dct s = .next t → t.bg = s.bg ∧ t.desc = s.desc ∧ t.zzgen = s.zzgen) ∧
    (∀ ch, exec (.reorder ch) s = .next t → t.bg = s.bg ∧ t.cg = s.cg ∧ t.zzgen = s.zzgen ∧
      ∀ d : Fin 3, d.val ≠ ch.toNat → t.desc[d.val] = s.desc[d.val]) ∧
    (∀ m, exec (.zzgen m) s = .next t → t.bg = s.bg ∧ t.cg = s.cg ∧ t.desc = s.desc) ∧
    (∀ ch, exec (.runCh ch) s = .next t → t.zzgen = s.zzgen ∧
      ∀ d : Fin 3, d.val ≠ ch.toNat → t.desc[d.val] = s.desc[d.val]) ∧
    (exec .runFrame s = .next t → t.zzgen = s.zzgen)

/-! ### The register space -/

/-- R27, R28: STATUS and LAST_ERR, field by field at the weights of their bits; writes to them are ignored. -/
def Obligations.StatusAndLastErrFields : Prop :=
  ∀ (s : State) (v : Word),
    (regRead s 0x010#12).toNat =
      s.busy.toNat + 2 * s.bgValid.toNat + 4 * s.cgValid.toNat + 2 ^ 4 * (s.descValid 0).toNat
        + 2 ^ 5 * (s.descValid 1).toNat + 2 ^ 6 * (s.descValid 2).toNat + 2 ^ 16 * s.zzgenM.toNat ∧
    (regRead s 0x014#12).toNat = s.lastCode.toNat + 2 ^ 8 * s.lastOpcode.toNat + 2 ^ 16 * s.lastCh.toNat ∧
    regWrite s 0x010#12 v = s ∧ regWrite s 0x014#12 v = s

/-- R29: IRQ_STATUS reads {irq_overrun, irq_err, irq_done}; a write of v clears each of bits 0, 1 and 2 that is 1 in v and leaves the
others, and changes nothing else. -/
def Obligations.IrqStatusWriteOneToClear : Prop :=
  ∀ (s : State) (v : Word),
    (regRead s 0x018#12).toNat = s.irqDone.toNat + 2 * s.irqErr.toNat + 4 * s.irqOverrun.toNat ∧
    regRead (regWrite s 0x018#12 v) 0x018#12 = regRead s 0x018#12 &&& ~~~v ∧
    regWrite s 0x018#12 v =
      { s with
        irqDone := (regWrite s 0x018#12 v).irqDone
        irqErr := (regWrite s 0x018#12 v).irqErr
        irqOverrun := (regWrite s 0x018#12 v).irqOverrun }

/-- R30 to R35: the read-write registers read back what was written, less their reserved bits, and a write to one changes that
register alone. -/
def Obligations.ReadWriteRegistersReadBack : Prop :=
  ∀ (s : State) (v : Word),
    (let t := regWrite s 0x01C#12 v; regRead t 0x01C#12 = v &&& 0x7#32 ∧ t = { s with irqEn := t.irqEn }) ∧
    (let t := regWrite s 0x020#12 v; regRead t 0x020#12 = v &&& 0x7#32 ∧ t = { s with chPresent := t.chPresent }) ∧
    ∀ (c : Fin 3) (k : Fin 4),
      let off := BitVec.ofNat 12 (0x040 + 0x10 * c.val + 4 * k.val)
      let t := regWrite s off v
      regRead t off = (if k = 1 ∨ k = 2 then v &&& 0xFFFF#32 else v) ∧
      t = { s with planes := t.planes } ∧
      ∀ (d : Fin 3) (j : Fin 4), ¬(d = c ∧ j = k) →
        regRead t (BitVec.ofNat 12 (0x040 + 0x10 * d.val + 4 * j.val)) =
          regRead s (BitVec.ofNat 12 (0x040 + 0x10 * d.val + 4 * j.val))

/-- R24, R25, R26, R41: ID and VERSION read their constants, CTRL and CMD and every reserved offset read 0, a write to a reserved or
read-only offset is ignored, and CTRL with bit 0 clear has no effect. -/
def Obligations.ConstantReservedAndReadOnlyOffsets : Prop :=
  ∀ (s : State) (v : Word),
    regRead s 0x000#12 = 0x434C4438#32 ∧ regRead s 0x004#12 = 0x00000001#32 ∧ regRead s 0x008#12 = 0 ∧
    regRead s 0x00C#12 = 0 ∧ (v.getLsbD 0 = false → regWrite s 0x008#12 v = s) ∧
    (∀ off : BitVec 12, 0x024 ≤ off.toNat ∧ off.toNat ≤ 0x03F ∨ 0x070 ≤ off.toNat ∧ off.toNat ≤ 0x1FF ∨ 0xE00 ≤ off.toNat →
      regRead s off = 0 ∧ regWrite s off v = s ∧
      (off.toNat % 4 = 0 → hostAccess (.regRead off 32) s = .next { s with hostReads := (off, 0) :: s.hostReads } ∧
        hostAccess (.regWrite off 32 v) s = .next s)) ∧
    (∀ off : BitVec 12, off.toNat < 8 ∨ 0x200 ≤ off.toNat → regWrite s off v = s)

/-- R36, R37, R40, R63: the BG, CG and DESC windows. Entry n of a valid buffer reads its low word at the lower offset and its high word
at the higher; a buffer that is not valid reads 0 in every word. -/
def Obligations.BufferWindowsReadTheirEntries : Prop :=
  ∀ (s : State) (n : Fin 64),
    (∀ (b : Option (Vector (BitVec 64) 64)) (base : Nat),
      ((b = s.bg ∧ base = 0x200) ∨ (b = s.cg ∧ base = 0x400) ∨ ∃ c : Fin 3, b = s.desc[c.val] ∧ base = 0x800 + 0x200 * c.val) →
      (b = none → regRead s (BitVec.ofNat 12 (base + 8 * n.val)) = 0 ∧ regRead s (BitVec.ofNat 12 (base + 8 * n.val + 4)) = 0) ∧
      (∀ g, b = some g →
        regRead s (BitVec.ofNat 12 (base + 8 * n.val + 4)) ++ regRead s (BitVec.ofNat 12 (base + 8 * n.val)) = g[n.val]))

/-- R38, R39: word n of the ZZ_ROM window reads PERM8[n] in every state, and word n of the ZZGEN window reads ZZGEN[n] where n < zzgen_m²
and 0 elsewhere. -/
def Obligations.ZigzagWindowsReadTheirTables : Prop :=
  ∀ (s : State) (n : Fin 64),
    (regRead s (BitVec.ofNat 12 (0x600 + 4 * n.val))).toNat = perm8List.getD n.val 64 ∧
    (s.zzgen = none → regRead s (BitVec.ofNat 12 (0x700 + 4 * n.val)) = 0) ∧
    (∀ t, s.zzgen = some t → (regRead s (BitVec.ofNat 12 (0x700 + 4 * n.val))).toNat =
      if n.val < t.m.toNat * t.m.toNat then t.entries[n.val].toNat else 0)

/-- R60, R61, R64: a register access that is not 32 bits wide or not at a multiple of 4 is a fault of the Host's step; a legal read
answers the register's value and changes nothing else. -/
def Obligations.HostAccessesFaultOrTakeEffect : Prop :=
  ∀ (s : State) (off : BitVec 12) (bits : Nat) (v : Word),
    (bits ≠ 32 ∨ off.toNat % 4 ≠ 0 →
      (∃ f, hostAccess (.regRead off bits) s = .fault f) ∧ ∃ f, hostAccess (.regWrite off bits v) s = .fault f) ∧
    (off.toNat % 4 = 0 →
      hostAccess (.regRead off 32) s = .next { s with hostReads := (off, regRead s off) :: s.hostReads } ∧
      hostAccess (.regWrite off 32 v) s = .next (regWrite s off v))

/-- R250, R251, R25: both resets put every piece of CLD8 state at its reset value, whatever is in flight, and leave sample memory, the
platform, the Host and the schedule; after one, `irq` is 0 and a CMD write is accepted. -/
def Obligations.ResetsClearTheDevice : Prop :=
  ∀ (s : State) (v w : Word) (rest : List Turn), v.getLsbD 0 = true →
    let r : State :=
      { State.reset with
        mem := s.mem, platform := s.platform, hostProgram := s.hostProgram, hostReads := s.hostReads
        hostWides := s.hostWides
        schedule := s.schedule, drawIndex := s.drawIndex }
    regWrite s 0x008#12 v = r ∧
    step { s with schedule := .hardReset :: rest } = .next { r with schedule := rest } ∧
    irqOutput r = false ∧ r.busy = false ∧ ∃ l, (regWrite r 0x00C#12 w).latch = some l ∧ l.cmd = w

/-- R23, R47: what every aligned offset reads right after reset: the constants of ID, VERSION and ZZ_ROM, and 0 elsewhere. -/
def Obligations.RegistersReadAtReset : Prop :=
  ∀ n : Fin 1024,
    (regRead State.reset (BitVec.ofNat 12 (4 * n.val))).toNat =
      if n.val = 0 then 0x434C4438 else if n.val = 1 then 1
      else if 0x180 ≤ n.val ∧ n.val < 0x1C0 then (zigzag 8).getD (n.val - 0x180) 0 else 0

/-- R220, R221: the interrupt output is 1 exactly when IRQ_STATUS and IRQ_ENABLE, as the Host reads them, have a 1 in common. -/
def Obligations.InterruptLineIsEnabledAndPending : Prop :=
  ∀ s : State, irqOutput s = true ↔ regRead s 0x018#12 &&& regRead s 0x01C#12 ≠ 0

/-! ### The command in flight and its surroundings -/

/-- R43, R265: a write to a PLANE register, CH_PRESENT or IRQ_ENABLE while a command is in flight does not change what the command does:
it commutes with the completion of every command. -/
def Obligations.ConfigurationWritesDoNotReachTheCommandInFlight : Prop :=
  ∀ (i : Instr) (s : State) (l : Latch) (off : BitVec 12) (v : Word), s.latch = some l →
    (0x040 ≤ off.toNat ∧ off.toNat < 0x070 ∨ off = 0x01C#12 ∨ off = 0x020#12) →
    ∃ t, exec i s = .next t ∧ exec i (regWrite s off v) = .next (regWrite t off v)

/-- R68: the contents of addresses outside the three latched planes' read sets, padding among them, cannot affect any result. -/
def Obligations.OnlySamplesInTheReadSetMatter : Prop :=
  ∀ (i : Instr) (s : State) (l : Latch) (m : Memory), s.latch = some l →
    (∀ (c : Fin 3) (a : Nat), InReadSet (l.plane c) a → Memory.read m a = Memory.read s.mem a) →
    ∃ t, exec i s = .next t ∧ exec i { s with mem := m } = .next { t with mem := m }

/-- R74: a sample read returns a value the byte held since acceptance; if nobody wrote it, the value at acceptance, which is the one
it holds; a write while the command is in flight adds the value written and takes none away. -/
def Obligations.SampleReadsReturnAValueHeld : Prop :=
  ∀ (s : State) (l : Latch) (c : Fin 3) (a : Nat),
    sampleByte s l c a ∈ bytesHeld s l a ∧
    ((∀ d ∈ l.overwritten, d.1 ≠ a) → sampleByte s l c a = Memory.read s.mem a) ∧
    ∀ (b : Byte) (a' : Nat), Memory.wf s.mem → s.latch = some l →
      ∃ l', (writeSample a b s).latch = some l' ∧ l' = { l with overwritten := l'.overwritten } ∧
        b ∈ bytesHeld (writeSample a b s) l' a ∧
        ∀ x, x ∈ bytesHeld (writeSample a b s) l' a' ↔ x ∈ bytesHeld s l a' ∨ (a' = a ∧ x = b)

/-! ### Invariants -/

/-- The invariant holds at reset (R47). That memory lists nothing and SAMPLE_MEM_SIZE is legal there are the model's choices (log 4,
log 5). -/
def Obligations.InvariantHoldsAtReset : Prop := Inv State.reset

/-- R49, R128, R163, R210 and the model's memory form: every step keeps the invariant. -/
def Obligations.StepKeepsTheInvariant : Prop := ∀ s t : State, Inv s → step s = .next t → Inv t

/-- R49: while bg_valid = 1 every BG entry is in [0, 255]; while cg_valid = 1 every CG entry is finite and not −0.0; while desc_valid[ch] = 1
DESC[ch] is a permutation of a committed CG. -/
def Obligations.ValidBuffersHoldLegalValues : Prop :=
  ∀ s : State, Inv s →
    (∀ g, s.bg = some g → ∀ n : Fin 64, 0 ≤ g[n.val].toInt ∧ g[n.val].toInt ≤ 255) ∧
    (∀ v, s.cg = some v → FiniteNotNegZero v) ∧
    (∀ (c : Fin 3) (d : Descriptor), s.desc[c.val] = some d →
      ∃ g, GridInRange g ∧ d.toList.Perm (dctRef g).toList ∧ FiniteNotNegZero d)

/-- R61: the only stops of the machine are a register access with a wrong width or alignment and, by the model's choice (log 19), one
outside the register space; nothing is ever refused. -/
def Obligations.OnlyBadHostAccessesStopTheMachine : Prop :=
  ∀ s : State, (∀ r, step s ≠ .refused r) ∧
    ∀ f, step s = .fault f → ∃ op rest, s.hostProgram = op :: rest ∧ op.legal = false

/-- R7, R65, R129: sample memory changes in no step but a Host write, and then in that one byte; the platform's parameters never
change. -/
def Obligations.OnlyTheHostWritesSampleMemory : Prop :=
  ∀ s t : State, Memory.wf s.mem → step s = .next t →
    t.platform = s.platform ∧
    (t.mem = s.mem ∨ ∃ (a : BitVec 32) (b : Byte) (rest : List HostOp), s.hostProgram = .mem8 a b :: rest ∧
      ∀ x, Memory.read t.mem x = if x = a.toNat then b else Memory.read s.mem x)

/-! ### The arithmetic -/

/-- R121: Edge(e, D) is the exact e·D/8 rounded to the nearest integer, ties up (away from zero). -/
def Obligations.EdgeRoundsHalfUp : Prop := ∀ e d : Nat, (edge e d : Int) = round ((e : Rat) * d / 8)

/-- R122: the edges run from 0 to D without falling; every coordinate lies in exactly one cell; a cell's width is floor(D/8) or one more;
every cell has a sample exactly when D ≥ 8. -/
def Obligations.CellsPartitionThePlane : Prop :=
  ∀ d : Nat,
    edge 0 d = 0 ∧ edge 8 d = d ∧ (∀ e, edge e d ≤ edge (e + 1) d) ∧
    (∀ x, x < d → ∃! e, e < 8 ∧ edge e d ≤ x ∧ x < edge (e + 1) d) ∧
    (∀ e, d / 8 ≤ edge (e + 1) d - edge e d ∧ edge (e + 1) d - edge e d ≤ d / 8 + 1) ∧
    (8 ≤ d ↔ ∀ e, e < 8 → edge e d < edge (e + 1) d)

/-- R127, R128: a cell has at most 2^26 samples and a sum below 2^34; on a plane of at least 8 by 8 the mean is in [0, 255], is the largest
q with q·cnt ≤ sum, and is v when every sample is v. -/
def Obligations.CellMeanNeedsNoWideArithmetic : Prop :=
  ∀ (s : State) (l : Latch) (c : Fin 3) (p : PlaneRegs) (i j : Fin 8),
    let cnt := (cellAddrs p i.val j.val).length
    let sum := ((cellAddrs p i.val j.val).map fun a => (sampleByte s l c a).toNat).sum
    cnt ≤ 2 ^ 26 ∧ sum < 2 ^ 34 ∧
    (8 ≤ p.width.toNat → 8 ≤ p.height.toNat →
      1 ≤ cnt ∧ cellMean s l c p i.val j.val ≤ 255 ∧ (∀ q, q ≤ cellMean s l c p i.val j.val ↔ q * cnt ≤ sum) ∧
      ∀ v : Byte, (∀ a ∈ cellAddrs p i.val j.val, sampleByte s l c a = v) → cellMean s l c p i.val j.val = v.toNat)

/-- R144, R145: each entry of the cosine table is within half a unit in its own last place of the cosine it stands for (a normal double
of biased exponent e has its last place at 2^(e − 1075)), and so is A0 of sqrt(1/8); A1 is sqrt(2/8) exactly. -/
def Obligations.CosineTableIsWithinHalfAnUlp : Prop :=
  (∀ n u : Fin 8,
    |((f64ToRat (cosTable n u) : Rat) : Real) - Real.cos (Real.pi * (2 * (n.val : Real) + 1) * (u.val : Real) / 16)|
      ≤ (2 : Real) ^ ((f64Exponent (cosTable n u) : Int) - 1076)) ∧
  |((f64ToRat alphaDC : Rat) : Real) - Real.sqrt (1 / 8)| ≤ (2 : Real) ^ ((f64Exponent alphaDC : Int) - 1076) ∧
  ((f64ToRat alphaAC : Rat) : Real) = Real.sqrt (2 / 8)

/-- R11: ⊕ on finite operands is the exact sum rounded to nearest, ties to even; it overflows exactly from 2^1024 − 2^970 up; an exact zero
is +0.0 unless both operands are −0.0 (R148). -/
def Obligations.AdditionIsCorrectlyRounded : Prop :=
  ∀ a b : Double, f64Finite a = true → f64Finite b = true →
    (f64Finite (f64Add a b) = false ↔ (2 : Rat) ^ 1024 - 2 ^ 970 ≤ |f64ToRat a + f64ToRat b|) ∧
    (f64Finite (f64Add a b) = true → ∀ c : Double, f64Finite c = true →
      |f64ToRat (f64Add a b) - (f64ToRat a + f64ToRat b)| ≤ |f64ToRat c - (f64ToRat a + f64ToRat b)| ∧
      (f64ToRat c ≠ f64ToRat (f64Add a b) →
        |f64ToRat (f64Add a b) - (f64ToRat a + f64ToRat b)| = |f64ToRat c - (f64ToRat a + f64ToRat b)| →
        f64Fraction (f64Add a b) % 2 = 0)) ∧
    (f64Add a b = f64NegZero → f64ToRat a + f64ToRat b = 0 → a = f64NegZero ∧ b = f64NegZero)

/-- R11: ⊗ on finite operands is the exact product rounded to nearest, ties to even; it overflows exactly from 2^1024 − 2^970 up; its sign
is the product of the signs. -/
def Obligations.MultiplicationIsCorrectlyRounded : Prop :=
  ∀ a b : Double, f64Finite a = true → f64Finite b = true →
    (f64Finite (f64Mul a b) = false ↔ (2 : Rat) ^ 1024 - 2 ^ 970 ≤ |f64ToRat a * f64ToRat b|) ∧
    (f64Finite (f64Mul a b) = true → ∀ c : Double, f64Finite c = true →
      |f64ToRat (f64Mul a b) - f64ToRat a * f64ToRat b| ≤ |f64ToRat c - f64ToRat a * f64ToRat b| ∧
      (f64ToRat c ≠ f64ToRat (f64Mul a b) →
        |f64ToRat (f64Mul a b) - f64ToRat a * f64ToRat b| = |f64ToRat c - f64ToRat a * f64ToRat b| →
        f64Fraction (f64Mul a b) % 2 = 0)) ∧
    f64Sign (f64Mul a b) = (f64Sign a != f64Sign b)

/-- R148: on grids with entries in [0, 255] every coefficient is a finite value and not −0.0. -/
def Obligations.DctRefIsFiniteAndNeverNegativeZero : Prop := ∀ g : BlockGrid, GridInRange g → FiniteNotNegZero (dctRef g)

/-- R149, R142: on grids with entries in [0, 255] every coefficient is within 1e-10 of the exact real transform. -/
def Obligations.DctRefIsAccurate : Prop :=
  ∀ g : BlockGrid, GridInRange g → ∀ x y : Fin 8,
    |((f64ToRat (dctRef g)[8 * x.val + y.val] : Rat) : Real) -
      (if x.val = 0 then Real.sqrt (1 / 8) else Real.sqrt (2 / 8)) *
      (if y.val = 0 then Real.sqrt (1 / 8) else Real.sqrt (2 / 8)) *
      ∑ ix : Fin 8, ∑ iy : Fin 8,
        (((g[8 * iy.val + ix.val].toInt : Int) : Real) - 128) *
          Real.cos (Real.pi * (2 * (ix.val : Real) + 1) * (x.val : Real) / 16) *
          Real.cos (Real.pi * (2 * (iy.val : Real) + 1) * (y.val : Real) / 16)| < 1e-10
end

