-- ==== Sys2Proof/Laws/State.lean ====
section
/-! SUPPORT. One lemma per field per update of the state, true by rfl, so that no proof unfolds a record update. -/

namespace Sys2Proof.Machine

/-! ### commitBlockGrid -/

@[simp] theorem commitBlockGrid_latch (g : BlockGrid) (s : State) :
    (commitBlockGrid g s).latch = s.latch := rfl
@[simp] theorem commitBlockGrid_bg (g : BlockGrid) (s : State) :
    (commitBlockGrid g s).bg = some g := rfl
@[simp] theorem commitBlockGrid_cg (g : BlockGrid) (s : State) :
    (commitBlockGrid g s).cg = s.cg := rfl
@[simp] theorem commitBlockGrid_desc (g : BlockGrid) (s : State) :
    (commitBlockGrid g s).desc = s.desc := rfl
@[simp] theorem commitBlockGrid_zzgen (g : BlockGrid) (s : State) :
    (commitBlockGrid g s).zzgen = s.zzgen := rfl
@[simp] theorem commitBlockGrid_lastCode (g : BlockGrid) (s : State) :
    (commitBlockGrid g s).lastCode = s.lastCode := rfl
@[simp] theorem commitBlockGrid_lastOpcode (g : BlockGrid) (s : State) :
    (commitBlockGrid g s).lastOpcode = s.lastOpcode := rfl
@[simp] theorem commitBlockGrid_lastCh (g : BlockGrid) (s : State) :
    (commitBlockGrid g s).lastCh = s.lastCh := rfl
@[simp] theorem commitBlockGrid_irqDone (g : BlockGrid) (s : State) :
    (commitBlockGrid g s).irqDone = s.irqDone := rfl
@[simp] theorem commitBlockGrid_irqErr (g : BlockGrid) (s : State) :
    (commitBlockGrid g s).irqErr = s.irqErr := rfl
@[simp] theorem commitBlockGrid_irqOverrun (g : BlockGrid) (s : State) :
    (commitBlockGrid g s).irqOverrun = s.irqOverrun := rfl
@[simp] theorem commitBlockGrid_irqEn (g : BlockGrid) (s : State) :
    (commitBlockGrid g s).irqEn = s.irqEn := rfl
@[simp] theorem commitBlockGrid_chPresent (g : BlockGrid) (s : State) :
    (commitBlockGrid g s).chPresent = s.chPresent := rfl
@[simp] theorem commitBlockGrid_planes (g : BlockGrid) (s : State) :
    (commitBlockGrid g s).planes = s.planes := rfl
@[simp] theorem commitBlockGrid_mem (g : BlockGrid) (s : State) :
    (commitBlockGrid g s).mem = s.mem := rfl
@[simp] theorem commitBlockGrid_platform (g : BlockGrid) (s : State) :
    (commitBlockGrid g s).platform = s.platform := rfl
@[simp] theorem commitBlockGrid_hostProgram (g : BlockGrid) (s : State) :
    (commitBlockGrid g s).hostProgram = s.hostProgram := rfl
@[simp] theorem commitBlockGrid_hostReads (g : BlockGrid) (s : State) :
    (commitBlockGrid g s).hostReads = s.hostReads := rfl
@[simp] theorem commitBlockGrid_hostWides (g : BlockGrid) (s : State) :
    (commitBlockGrid g s).hostWides = s.hostWides := rfl
@[simp] theorem commitBlockGrid_schedule (g : BlockGrid) (s : State) :
    (commitBlockGrid g s).schedule = s.schedule := rfl
@[simp] theorem commitBlockGrid_drawIndex (g : BlockGrid) (s : State) :
    (commitBlockGrid g s).drawIndex = s.drawIndex := rfl

/-! ### commitCoeffGrid -/

@[simp] theorem commitCoeffGrid_latch (v : CoeffGrid) (s : State) :
    (commitCoeffGrid v s).latch = s.latch := rfl
@[simp] theorem commitCoeffGrid_bg (v : CoeffGrid) (s : State) :
    (commitCoeffGrid v s).bg = s.bg := rfl
@[simp] theorem commitCoeffGrid_cg (v : CoeffGrid) (s : State) :
    (commitCoeffGrid v s).cg = some v := rfl
@[simp] theorem commitCoeffGrid_desc (v : CoeffGrid) (s : State) :
    (commitCoeffGrid v s).desc = s.desc := rfl
@[simp] theorem commitCoeffGrid_zzgen (v : CoeffGrid) (s : State) :
    (commitCoeffGrid v s).zzgen = s.zzgen := rfl
@[simp] theorem commitCoeffGrid_lastCode (v : CoeffGrid) (s : State) :
    (commitCoeffGrid v s).lastCode = s.lastCode := rfl
@[simp] theorem commitCoeffGrid_lastOpcode (v : CoeffGrid) (s : State) :
    (commitCoeffGrid v s).lastOpcode = s.lastOpcode := rfl
@[simp] theorem commitCoeffGrid_lastCh (v : CoeffGrid) (s : State) :
    (commitCoeffGrid v s).lastCh = s.lastCh := rfl
@[simp] theorem commitCoeffGrid_irqDone (v : CoeffGrid) (s : State) :
    (commitCoeffGrid v s).irqDone = s.irqDone := rfl
@[simp] theorem commitCoeffGrid_irqErr (v : CoeffGrid) (s : State) :
    (commitCoeffGrid v s).irqErr = s.irqErr := rfl
@[simp] theorem commitCoeffGrid_irqOverrun (v : CoeffGrid) (s : State) :
    (commitCoeffGrid v s).irqOverrun = s.irqOverrun := rfl
@[simp] theorem commitCoeffGrid_irqEn (v : CoeffGrid) (s : State) :
    (commitCoeffGrid v s).irqEn = s.irqEn := rfl
@[simp] theorem commitCoeffGrid_chPresent (v : CoeffGrid) (s : State) :
    (commitCoeffGrid v s).chPresent = s.chPresent := rfl
@[simp] theorem commitCoeffGrid_planes (v : CoeffGrid) (s : State) :
    (commitCoeffGrid v s).planes = s.planes := rfl
@[simp] theorem commitCoeffGrid_mem (v : CoeffGrid) (s : State) :
    (commitCoeffGrid v s).mem = s.mem := rfl
@[simp] theorem commitCoeffGrid_platform (v : CoeffGrid) (s : State) :
    (commitCoeffGrid v s).platform = s.platform := rfl
@[simp] theorem commitCoeffGrid_hostProgram (v : CoeffGrid) (s : State) :
    (commitCoeffGrid v s).hostProgram = s.hostProgram := rfl
@[simp] theorem commitCoeffGrid_hostReads (v : CoeffGrid) (s : State) :
    (commitCoeffGrid v s).hostReads = s.hostReads := rfl
@[simp] theorem commitCoeffGrid_hostWides (v : CoeffGrid) (s : State) :
    (commitCoeffGrid v s).hostWides = s.hostWides := rfl
@[simp] theorem commitCoeffGrid_schedule (v : CoeffGrid) (s : State) :
    (commitCoeffGrid v s).schedule = s.schedule := rfl
@[simp] theorem commitCoeffGrid_drawIndex (v : CoeffGrid) (s : State) :
    (commitCoeffGrid v s).drawIndex = s.drawIndex := rfl

/-! ### commitDescriptor -/

@[simp] theorem commitDescriptor_latch (ch : Fin 3) (d : Descriptor) (s : State) :
    (commitDescriptor ch d s).latch = s.latch := rfl
@[simp] theorem commitDescriptor_bg (ch : Fin 3) (d : Descriptor) (s : State) :
    (commitDescriptor ch d s).bg = s.bg := rfl
@[simp] theorem commitDescriptor_cg (ch : Fin 3) (d : Descriptor) (s : State) :
    (commitDescriptor ch d s).cg = s.cg := rfl
@[simp] theorem commitDescriptor_desc (ch : Fin 3) (d : Descriptor) (s : State) :
    (commitDescriptor ch d s).desc = s.desc.set ch.val (some d) := rfl
@[simp] theorem commitDescriptor_zzgen (ch : Fin 3) (d : Descriptor) (s : State) :
    (commitDescriptor ch d s).zzgen = s.zzgen := rfl
@[simp] theorem commitDescriptor_lastCode (ch : Fin 3) (d : Descriptor) (s : State) :
    (commitDescriptor ch d s).lastCode = s.lastCode := rfl
@[simp] theorem commitDescriptor_lastOpcode (ch : Fin 3) (d : Descriptor) (s : State) :
    (commitDescriptor ch d s).lastOpcode = s.lastOpcode := rfl
@[simp] theorem commitDescriptor_lastCh (ch : Fin 3) (d : Descriptor) (s : State) :
    (commitDescriptor ch d s).lastCh = s.lastCh := rfl
@[simp] theorem commitDescriptor_irqDone (ch : Fin 3) (d : Descriptor) (s : State) :
    (commitDescriptor ch d s).irqDone = s.irqDone := rfl
@[simp] theorem commitDescriptor_irqErr (ch : Fin 3) (d : Descriptor) (s : State) :
    (commitDescriptor ch d s).irqErr = s.irqErr := rfl
@[simp] theorem commitDescriptor_irqOverrun (ch : Fin 3) (d : Descriptor) (s : State) :
    (commitDescriptor ch d s).irqOverrun = s.irqOverrun := rfl
@[simp] theorem commitDescriptor_irqEn (ch : Fin 3) (d : Descriptor) (s : State) :
    (commitDescriptor ch d s).irqEn = s.irqEn := rfl
@[simp] theorem commitDescriptor_chPresent (ch : Fin 3) (d : Descriptor) (s : State) :
    (commitDescriptor ch d s).chPresent = s.chPresent := rfl
@[simp] theorem commitDescriptor_planes (ch : Fin 3) (d : Descriptor) (s : State) :
    (commitDescriptor ch d s).planes = s.planes := rfl
@[simp] theorem commitDescriptor_mem (ch : Fin 3) (d : Descriptor) (s : State) :
    (commitDescriptor ch d s).mem = s.mem := rfl
@[simp] theorem commitDescriptor_platform (ch : Fin 3) (d : Descriptor) (s : State) :
    (commitDescriptor ch d s).platform = s.platform := rfl
@[simp] theorem commitDescriptor_hostProgram (ch : Fin 3) (d : Descriptor) (s : State) :
    (commitDescriptor ch d s).hostProgram = s.hostProgram := rfl
@[simp] theorem commitDescriptor_hostReads (ch : Fin 3) (d : Descriptor) (s : State) :
    (commitDescriptor ch d s).hostReads = s.hostReads := rfl
@[simp] theorem commitDescriptor_hostWides (ch : Fin 3) (d : Descriptor) (s : State) :
    (commitDescriptor ch d s).hostWides = s.hostWides := rfl
@[simp] theorem commitDescriptor_schedule (ch : Fin 3) (d : Descriptor) (s : State) :
    (commitDescriptor ch d s).schedule = s.schedule := rfl
@[simp] theorem commitDescriptor_drawIndex (ch : Fin 3) (d : Descriptor) (s : State) :
    (commitDescriptor ch d s).drawIndex = s.drawIndex := rfl

/-! ### commitZigzag -/

@[simp] theorem commitZigzag_latch (t : ZzTable) (s : State) :
    (commitZigzag t s).latch = s.latch := rfl
@[simp] theorem commitZigzag_bg (t : ZzTable) (s : State) :
    (commitZigzag t s).bg = s.bg := rfl
@[simp] theorem commitZigzag_cg (t : ZzTable) (s : State) :
    (commitZigzag t s).cg = s.cg := rfl
@[simp] theorem commitZigzag_desc (t : ZzTable) (s : State) :
    (commitZigzag t s).desc = s.desc := rfl
@[simp] theorem commitZigzag_zzgen (t : ZzTable) (s : State) :
    (commitZigzag t s).zzgen = some t := rfl
@[simp] theorem commitZigzag_lastCode (t : ZzTable) (s : State) :
    (commitZigzag t s).lastCode = s.lastCode := rfl
@[simp] theorem commitZigzag_lastOpcode (t : ZzTable) (s : State) :
    (commitZigzag t s).lastOpcode = s.lastOpcode := rfl
@[simp] theorem commitZigzag_lastCh (t : ZzTable) (s : State) :
    (commitZigzag t s).lastCh = s.lastCh := rfl
@[simp] theorem commitZigzag_irqDone (t : ZzTable) (s : State) :
    (commitZigzag t s).irqDone = s.irqDone := rfl
@[simp] theorem commitZigzag_irqErr (t : ZzTable) (s : State) :
    (commitZigzag t s).irqErr = s.irqErr := rfl
@[simp] theorem commitZigzag_irqOverrun (t : ZzTable) (s : State) :
    (commitZigzag t s).irqOverrun = s.irqOverrun := rfl
@[simp] theorem commitZigzag_irqEn (t : ZzTable) (s : State) :
    (commitZigzag t s).irqEn = s.irqEn := rfl
@[simp] theorem commitZigzag_chPresent (t : ZzTable) (s : State) :
    (commitZigzag t s).chPresent = s.chPresent := rfl
@[simp] theorem commitZigzag_planes (t : ZzTable) (s : State) :
    (commitZigzag t s).planes = s.planes := rfl
@[simp] theorem commitZigzag_mem (t : ZzTable) (s : State) :
    (commitZigzag t s).mem = s.mem := rfl
@[simp] theorem commitZigzag_platform (t : ZzTable) (s : State) :
    (commitZigzag t s).platform = s.platform := rfl
@[simp] theorem commitZigzag_hostProgram (t : ZzTable) (s : State) :
    (commitZigzag t s).hostProgram = s.hostProgram := rfl
@[simp] theorem commitZigzag_hostReads (t : ZzTable) (s : State) :
    (commitZigzag t s).hostReads = s.hostReads := rfl
@[simp] theorem commitZigzag_hostWides (t : ZzTable) (s : State) :
    (commitZigzag t s).hostWides = s.hostWides := rfl
@[simp] theorem commitZigzag_schedule (t : ZzTable) (s : State) :
    (commitZigzag t s).schedule = s.schedule := rfl
@[simp] theorem commitZigzag_drawIndex (t : ZzTable) (s : State) :
    (commitZigzag t s).drawIndex = s.drawIndex := rfl

/-! ### succeed -/

@[simp] theorem succeed_latch (w : Word) (ch : BitVec 2) (s : State) :
    (succeed w ch s).latch = none := rfl
@[simp] theorem succeed_bg (w : Word) (ch : BitVec 2) (s : State) :
    (succeed w ch s).bg = s.bg := rfl
@[simp] theorem succeed_cg (w : Word) (ch : BitVec 2) (s : State) :
    (succeed w ch s).cg = s.cg := rfl
@[simp] theorem succeed_desc (w : Word) (ch : BitVec 2) (s : State) :
    (succeed w ch s).desc = s.desc := rfl
@[simp] theorem succeed_zzgen (w : Word) (ch : BitVec 2) (s : State) :
    (succeed w ch s).zzgen = s.zzgen := rfl
@[simp] theorem succeed_lastCode (w : Word) (ch : BitVec 2) (s : State) :
    (succeed w ch s).lastCode = 0#4 := rfl
@[simp] theorem succeed_lastOpcode (w : Word) (ch : BitVec 2) (s : State) :
    (succeed w ch s).lastOpcode = opField w := rfl
@[simp] theorem succeed_lastCh (w : Word) (ch : BitVec 2) (s : State) :
    (succeed w ch s).lastCh = ch := rfl
@[simp] theorem succeed_irqDone (w : Word) (ch : BitVec 2) (s : State) :
    (succeed w ch s).irqDone = true := rfl
@[simp] theorem succeed_irqErr (w : Word) (ch : BitVec 2) (s : State) :
    (succeed w ch s).irqErr = s.irqErr := rfl
@[simp] theorem succeed_irqOverrun (w : Word) (ch : BitVec 2) (s : State) :
    (succeed w ch s).irqOverrun = s.irqOverrun := rfl
@[simp] theorem succeed_irqEn (w : Word) (ch : BitVec 2) (s : State) :
    (succeed w ch s).irqEn = s.irqEn := rfl
@[simp] theorem succeed_chPresent (w : Word) (ch : BitVec 2) (s : State) :
    (succeed w ch s).chPresent = s.chPresent := rfl
@[simp] theorem succeed_planes (w : Word) (ch : BitVec 2) (s : State) :
    (succeed w ch s).planes = s.planes := rfl
@[simp] theorem succeed_mem (w : Word) (ch : BitVec 2) (s : State) :
    (succeed w ch s).mem = s.mem := rfl
@[simp] theorem succeed_platform (w : Word) (ch : BitVec 2) (s : State) :
    (succeed w ch s).platform = s.platform := rfl
@[simp] theorem succeed_hostProgram (w : Word) (ch : BitVec 2) (s : State) :
    (succeed w ch s).hostProgram = s.hostProgram := rfl
@[simp] theorem succeed_hostReads (w : Word) (ch : BitVec 2) (s : State) :
    (succeed w ch s).hostReads = s.hostReads := rfl
@[simp] theorem succeed_hostWides (w : Word) (ch : BitVec 2) (s : State) :
    (succeed w ch s).hostWides = s.hostWides := rfl
@[simp] theorem succeed_schedule (w : Word) (ch : BitVec 2) (s : State) :
    (succeed w ch s).schedule = s.schedule := rfl
@[simp] theorem succeed_drawIndex (w : Word) (ch : BitVec 2) (s : State) :
    (succeed w ch s).drawIndex = s.drawIndex + 1 := rfl

/-! ### takeError -/

@[simp] theorem takeError_latch (w : Word) (e : CmdError) (s : State) :
    (takeError w e s).latch = none := rfl
@[simp] theorem takeError_bg (w : Word) (e : CmdError) (s : State) :
    (takeError w e s).bg = s.bg := rfl
@[simp] theorem takeError_cg (w : Word) (e : CmdError) (s : State) :
    (takeError w e s).cg = s.cg := rfl
@[simp] theorem takeError_desc (w : Word) (e : CmdError) (s : State) :
    (takeError w e s).desc = s.desc := rfl
@[simp] theorem takeError_zzgen (w : Word) (e : CmdError) (s : State) :
    (takeError w e s).zzgen = s.zzgen := rfl
@[simp] theorem takeError_lastCode (w : Word) (e : CmdError) (s : State) :
    (takeError w e s).lastCode = ErrorCode.bits e.code := rfl
@[simp] theorem takeError_lastOpcode (w : Word) (e : CmdError) (s : State) :
    (takeError w e s).lastOpcode = opField w := rfl
@[simp] theorem takeError_lastCh (w : Word) (e : CmdError) (s : State) :
    (takeError w e s).lastCh = e.ch := rfl
@[simp] theorem takeError_irqDone (w : Word) (e : CmdError) (s : State) :
    (takeError w e s).irqDone = s.irqDone := rfl
@[simp] theorem takeError_irqErr (w : Word) (e : CmdError) (s : State) :
    (takeError w e s).irqErr = true := rfl
@[simp] theorem takeError_irqOverrun (w : Word) (e : CmdError) (s : State) :
    (takeError w e s).irqOverrun = s.irqOverrun := rfl
@[simp] theorem takeError_irqEn (w : Word) (e : CmdError) (s : State) :
    (takeError w e s).irqEn = s.irqEn := rfl
@[simp] theorem takeError_chPresent (w : Word) (e : CmdError) (s : State) :
    (takeError w e s).chPresent = s.chPresent := rfl
@[simp] theorem takeError_planes (w : Word) (e : CmdError) (s : State) :
    (takeError w e s).planes = s.planes := rfl
@[simp] theorem takeError_mem (w : Word) (e : CmdError) (s : State) :
    (takeError w e s).mem = s.mem := rfl
@[simp] theorem takeError_platform (w : Word) (e : CmdError) (s : State) :
    (takeError w e s).platform = s.platform := rfl
@[simp] theorem takeError_hostProgram (w : Word) (e : CmdError) (s : State) :
    (takeError w e s).hostProgram = s.hostProgram := rfl
@[simp] theorem takeError_hostReads (w : Word) (e : CmdError) (s : State) :
    (takeError w e s).hostReads = s.hostReads := rfl
@[simp] theorem takeError_hostWides (w : Word) (e : CmdError) (s : State) :
    (takeError w e s).hostWides = s.hostWides := rfl
@[simp] theorem takeError_schedule (w : Word) (e : CmdError) (s : State) :
    (takeError w e s).schedule = s.schedule := rfl
@[simp] theorem takeError_drawIndex (w : Word) (e : CmdError) (s : State) :
    (takeError w e s).drawIndex = s.drawIndex := rfl

/-! ### clearIrq -/

@[simp] theorem clearIrq_latch (v : Word) (s : State) :
    (clearIrq v s).latch = s.latch := rfl
@[simp] theorem clearIrq_bg (v : Word) (s : State) :
    (clearIrq v s).bg = s.bg := rfl
@[simp] theorem clearIrq_cg (v : Word) (s : State) :
    (clearIrq v s).cg = s.cg := rfl
@[simp] theorem clearIrq_desc (v : Word) (s : State) :
    (clearIrq v s).desc = s.desc := rfl
@[simp] theorem clearIrq_zzgen (v : Word) (s : State) :
    (clearIrq v s).zzgen = s.zzgen := rfl
@[simp] theorem clearIrq_lastCode (v : Word) (s : State) :
    (clearIrq v s).lastCode = s.lastCode := rfl
@[simp] theorem clearIrq_lastOpcode (v : Word) (s : State) :
    (clearIrq v s).lastOpcode = s.lastOpcode := rfl
@[simp] theorem clearIrq_lastCh (v : Word) (s : State) :
    (clearIrq v s).lastCh = s.lastCh := rfl
@[simp] theorem clearIrq_irqDone (v : Word) (s : State) :
    (clearIrq v s).irqDone = (s.irqDone && !v.getLsbD 0) := rfl
@[simp] theorem clearIrq_irqErr (v : Word) (s : State) :
    (clearIrq v s).irqErr = (s.irqErr && !v.getLsbD 1) := rfl
@[simp] theorem clearIrq_irqOverrun (v : Word) (s : State) :
    (clearIrq v s).irqOverrun = (s.irqOverrun && !v.getLsbD 2) := rfl
@[simp] theorem clearIrq_irqEn (v : Word) (s : State) :
    (clearIrq v s).irqEn = s.irqEn := rfl
@[simp] theorem clearIrq_chPresent (v : Word) (s : State) :
    (clearIrq v s).chPresent = s.chPresent := rfl
@[simp] theorem clearIrq_planes (v : Word) (s : State) :
    (clearIrq v s).planes = s.planes := rfl
@[simp] theorem clearIrq_mem (v : Word) (s : State) :
    (clearIrq v s).mem = s.mem := rfl
@[simp] theorem clearIrq_platform (v : Word) (s : State) :
    (clearIrq v s).platform = s.platform := rfl
@[simp] theorem clearIrq_hostProgram (v : Word) (s : State) :
    (clearIrq v s).hostProgram = s.hostProgram := rfl
@[simp] theorem clearIrq_hostReads (v : Word) (s : State) :
    (clearIrq v s).hostReads = s.hostReads := rfl
@[simp] theorem clearIrq_hostWides (v : Word) (s : State) :
    (clearIrq v s).hostWides = s.hostWides := rfl
@[simp] theorem clearIrq_schedule (v : Word) (s : State) :
    (clearIrq v s).schedule = s.schedule := rfl
@[simp] theorem clearIrq_drawIndex (v : Word) (s : State) :
    (clearIrq v s).drawIndex = s.drawIndex := rfl

/-! ### resetDevice -/

@[simp] theorem resetDevice_latch (s : State) :
    (resetDevice s).latch = none := rfl
@[simp] theorem resetDevice_bg (s : State) :
    (resetDevice s).bg = none := rfl
@[simp] theorem resetDevice_cg (s : State) :
    (resetDevice s).cg = none := rfl
@[simp] theorem resetDevice_desc (s : State) :
    (resetDevice s).desc = Vector.replicate 3 none := rfl
@[simp] theorem resetDevice_zzgen (s : State) :
    (resetDevice s).zzgen = none := rfl
@[simp] theorem resetDevice_lastCode (s : State) :
    (resetDevice s).lastCode = 0 := rfl
@[simp] theorem resetDevice_lastOpcode (s : State) :
    (resetDevice s).lastOpcode = 0 := rfl
@[simp] theorem resetDevice_lastCh (s : State) :
    (resetDevice s).lastCh = 0 := rfl
@[simp] theorem resetDevice_irqDone (s : State) :
    (resetDevice s).irqDone = false := rfl
@[simp] theorem resetDevice_irqErr (s : State) :
    (resetDevice s).irqErr = false := rfl
@[simp] theorem resetDevice_irqOverrun (s : State) :
    (resetDevice s).irqOverrun = false := rfl
@[simp] theorem resetDevice_irqEn (s : State) :
    (resetDevice s).irqEn = 0 := rfl
@[simp] theorem resetDevice_chPresent (s : State) :
    (resetDevice s).chPresent = 0 := rfl
@[simp] theorem resetDevice_planes (s : State) :
    (resetDevice s).planes = Vector.replicate 3 PlaneRegs.reset := rfl
@[simp] theorem resetDevice_mem (s : State) :
    (resetDevice s).mem = s.mem := rfl
@[simp] theorem resetDevice_platform (s : State) :
    (resetDevice s).platform = s.platform := rfl
@[simp] theorem resetDevice_hostProgram (s : State) :
    (resetDevice s).hostProgram = s.hostProgram := rfl
@[simp] theorem resetDevice_hostReads (s : State) :
    (resetDevice s).hostReads = s.hostReads := rfl
@[simp] theorem resetDevice_hostWides (s : State) :
    (resetDevice s).hostWides = s.hostWides := rfl
@[simp] theorem resetDevice_schedule (s : State) :
    (resetDevice s).schedule = s.schedule := rfl
@[simp] theorem resetDevice_drawIndex (s : State) :
    (resetDevice s).drawIndex = s.drawIndex := rfl

/-! ### writeSample -/

@[simp] theorem writeSample_latch (a : Nat) (b : Byte) (s : State) :
    (writeSample a b s).latch = s.latch.map fun l => { l with overwritten := (a, Memory.read s.mem a) :: l.overwritten } := rfl
@[simp] theorem writeSample_bg (a : Nat) (b : Byte) (s : State) :
    (writeSample a b s).bg = s.bg := rfl
@[simp] theorem writeSample_cg (a : Nat) (b : Byte) (s : State) :
    (writeSample a b s).cg = s.cg := rfl
@[simp] theorem writeSample_desc (a : Nat) (b : Byte) (s : State) :
    (writeSample a b s).desc = s.desc := rfl
@[simp] theorem writeSample_zzgen (a : Nat) (b : Byte) (s : State) :
    (writeSample a b s).zzgen = s.zzgen := rfl
@[simp] theorem writeSample_lastCode (a : Nat) (b : Byte) (s : State) :
    (writeSample a b s).lastCode = s.lastCode := rfl
@[simp] theorem writeSample_lastOpcode (a : Nat) (b : Byte) (s : State) :
    (writeSample a b s).lastOpcode = s.lastOpcode := rfl
@[simp] theorem writeSample_lastCh (a : Nat) (b : Byte) (s : State) :
    (writeSample a b s).lastCh = s.lastCh := rfl
@[simp] theorem writeSample_irqDone (a : Nat) (b : Byte) (s : State) :
    (writeSample a b s).irqDone = s.irqDone := rfl
@[simp] theorem writeSample_irqErr (a : Nat) (b : Byte) (s : State) :
    (writeSample a b s).irqErr = s.irqErr := rfl
@[simp] theorem writeSample_irqOverrun (a : Nat) (b : Byte) (s : State) :
    (writeSample a b s).irqOverrun = s.irqOverrun := rfl
@[simp] theorem writeSample_irqEn (a : Nat) (b : Byte) (s : State) :
    (writeSample a b s).irqEn = s.irqEn := rfl
@[simp] theorem writeSample_chPresent (a : Nat) (b : Byte) (s : State) :
    (writeSample a b s).chPresent = s.chPresent := rfl
@[simp] theorem writeSample_planes (a : Nat) (b : Byte) (s : State) :
    (writeSample a b s).planes = s.planes := rfl
@[simp] theorem writeSample_mem (a : Nat) (b : Byte) (s : State) :
    (writeSample a b s).mem = Memory.write s.mem a b := rfl
@[simp] theorem writeSample_platform (a : Nat) (b : Byte) (s : State) :
    (writeSample a b s).platform = s.platform := rfl
@[simp] theorem writeSample_hostProgram (a : Nat) (b : Byte) (s : State) :
    (writeSample a b s).hostProgram = s.hostProgram := rfl
@[simp] theorem writeSample_hostReads (a : Nat) (b : Byte) (s : State) :
    (writeSample a b s).hostReads = s.hostReads := rfl
@[simp] theorem writeSample_hostWides (a : Nat) (b : Byte) (s : State) :
    (writeSample a b s).hostWides = s.hostWides := rfl
@[simp] theorem writeSample_schedule (a : Nat) (b : Byte) (s : State) :
    (writeSample a b s).schedule = s.schedule := rfl
@[simp] theorem writeSample_drawIndex (a : Nat) (b : Byte) (s : State) :
    (writeSample a b s).drawIndex = s.drawIndex := rfl

/-! ### joinReads -/

@[simp] theorem joinReads_latch (off : BitVec 12) (s : State) :
    (joinReads off s).latch = s.latch := by unfold joinReads; split <;> rfl
@[simp] theorem joinReads_bg (off : BitVec 12) (s : State) :
    (joinReads off s).bg = s.bg := by unfold joinReads; split <;> rfl
@[simp] theorem joinReads_cg (off : BitVec 12) (s : State) :
    (joinReads off s).cg = s.cg := by unfold joinReads; split <;> rfl
@[simp] theorem joinReads_desc (off : BitVec 12) (s : State) :
    (joinReads off s).desc = s.desc := by unfold joinReads; split <;> rfl
@[simp] theorem joinReads_zzgen (off : BitVec 12) (s : State) :
    (joinReads off s).zzgen = s.zzgen := by unfold joinReads; split <;> rfl
@[simp] theorem joinReads_lastCode (off : BitVec 12) (s : State) :
    (joinReads off s).lastCode = s.lastCode := by unfold joinReads; split <;> rfl
@[simp] theorem joinReads_lastOpcode (off : BitVec 12) (s : State) :
    (joinReads off s).lastOpcode = s.lastOpcode := by unfold joinReads; split <;> rfl
@[simp] theorem joinReads_lastCh (off : BitVec 12) (s : State) :
    (joinReads off s).lastCh = s.lastCh := by unfold joinReads; split <;> rfl
@[simp] theorem joinReads_irqDone (off : BitVec 12) (s : State) :
    (joinReads off s).irqDone = s.irqDone := by unfold joinReads; split <;> rfl
@[simp] theorem joinReads_irqErr (off : BitVec 12) (s : State) :
    (joinReads off s).irqErr = s.irqErr := by unfold joinReads; split <;> rfl
@[simp] theorem joinReads_irqOverrun (off : BitVec 12) (s : State) :
    (joinReads off s).irqOverrun = s.irqOverrun := by unfold joinReads; split <;> rfl
@[simp] theorem joinReads_irqEn (off : BitVec 12) (s : State) :
    (joinReads off s).irqEn = s.irqEn := by unfold joinReads; split <;> rfl
@[simp] theorem joinReads_chPresent (off : BitVec 12) (s : State) :
    (joinReads off s).chPresent = s.chPresent := by unfold joinReads; split <;> rfl
@[simp] theorem joinReads_planes (off : BitVec 12) (s : State) :
    (joinReads off s).planes = s.planes := by unfold joinReads; split <;> rfl
@[simp] theorem joinReads_mem (off : BitVec 12) (s : State) :
    (joinReads off s).mem = s.mem := by unfold joinReads; split <;> rfl
@[simp] theorem joinReads_platform (off : BitVec 12) (s : State) :
    (joinReads off s).platform = s.platform := by unfold joinReads; split <;> rfl
@[simp] theorem joinReads_hostProgram (off : BitVec 12) (s : State) :
    (joinReads off s).hostProgram = s.hostProgram := by unfold joinReads; split <;> rfl
@[simp] theorem joinReads_hostReads (off : BitVec 12) (s : State) :
    (joinReads off s).hostReads = s.hostReads := by unfold joinReads; split <;> rfl
@[simp] theorem joinReads_schedule (off : BitVec 12) (s : State) :
    (joinReads off s).schedule = s.schedule := by unfold joinReads; split <;> rfl
@[simp] theorem joinReads_drawIndex (off : BitVec 12) (s : State) :
    (joinReads off s).drawIndex = s.drawIndex := by unfold joinReads; split <;> rfl

/-! ### The written-out states of Safety.lean are the ones the operations leave -/

theorem succeed_eq_successState (w : Word) (ch : BitVec 2) (s : State) : succeed w ch s = successState s w ch := rfl

theorem takeError_eq_errorState (w : Word) (e : CmdError) (s : State) :
    takeError w e s = errorState s w (ErrorCode.bits e.code) e.ch := rfl

end Sys2Proof.Machine
end

