-- ==== Sys2Proof/Laws/Ops.lean ====
section
/-! SUPPORT. For each shared operation, once, everything it can answer; proofs cite these instead of unfolding the operation. -/

namespace Sys2Proof.Machine

/-! ### Views -/

theorem busy_eq_true_iff {s : State} : s.busy = true ↔ ∃ l, s.latch = some l := Option.isSome_iff_exists

theorem busy_eq_false_iff {s : State} : s.busy = false ↔ s.latch = none := by
  simp [State.busy]

/-! ### Acceptance -/

theorem issue_of_idle {w : Word} {s : State} (h : s.latch = none) :
    issue w s = { s with latch := some (captureLatch w s) } := by
  simp [issue, State.busy, h]

theorem issue_of_busy {w : Word} {s : State} {l : Latch} (h : s.latch = some l) :
    issue w s = { s with irqOverrun := true } := by
  simp [issue, State.busy, h]

/-! ### Completion -/

theorem complete_of_idle {ch : BitVec 2} {body : Latch → Except CmdError State} {s : State} (h : s.latch = none) :
    complete ch body s = .next s := by
  simp [complete, h]

theorem complete_of_ok {ch : BitVec 2} {body : Latch → Except CmdError State} {s t : State} {l : Latch}
    (hl : s.latch = some l) (hb : body l = .ok t) : complete ch body s = .next (succeed l.cmd ch t) := by
  simp [complete, hl, hb]

theorem complete_of_error {ch : BitVec 2} {body : Latch → Except CmdError State} {s : State} {l : Latch} {e : CmdError}
    (hl : s.latch = some l) (hb : body l = .error e) : complete ch body s = .next (takeError l.cmd e s) := by
  simp [complete, hl, hb]

/-- Everything a completion can answer: nothing while idle, success with the commits, or an error with none. -/
theorem complete_cases {ch : BitVec 2} {body : Latch → Except CmdError State} {s : State}
    {o : Host.Outcome State Fault Refusal} (h : complete ch body s = o) :
    (s.latch = none ∧ o = .next s) ∨
    (∃ l t, s.latch = some l ∧ body l = .ok t ∧ o = .next (succeed l.cmd ch t)) ∨
    (∃ l e, s.latch = some l ∧ body l = .error e ∧ o = .next (takeError l.cmd e s)) := by
  subst h
  rcases hl : s.latch with _ | l
  · exact .inl ⟨rfl, complete_of_idle hl⟩
  · rcases hb : body l with e | t
    · exact .inr (.inr ⟨l, e, rfl, hb, complete_of_error hl hb⟩)
    · exact .inr (.inl ⟨l, t, rfl, hb, complete_of_ok hl hb⟩)

/-! ### Sample reads -/

/-- A byte nobody wrote since acceptance is read as it stands (R74). -/
theorem sampleByte_of_not_overwritten {s : State} {l : Latch} {c : Fin 3} {a : Nat}
    (h : ∀ d ∈ l.overwritten, d.1 ≠ a) : sampleByte s l c a = Memory.read s.mem a := by
  have hf : (l.overwritten.filter fun d => d.1 == a) = [] := by
    simpa using h
  simp [sampleByte, bytesHeld, hf]

/-! ### Operands -/

theorem channelOperand_of_lt {ch : BitVec 2} (h : ch.toNat < 3) : channelOperand ch = .ok ⟨ch.toNat, h⟩ := by
  simp [channelOperand, h]

theorem channelOperand_three : channelOperand 3#2 = .error ⟨.badChannel, 3#2⟩ := rfl

theorem chBits_toNat (c : Fin 3) : (chBits c).toNat = c := by revert c; decide

/-- A channel operand is CH = 3 or names a channel. -/
theorem channelOperand_cases (ch : BitVec 2) :
    (ch = 3#2 ∧ channelOperand ch = .error ⟨.badChannel, ch⟩) ∨ ∃ c : Fin 3, ch = chBits c ∧ channelOperand ch = .ok c := by
  revert ch; decide

theorem sizeOperand_of_ok {m : BitVec 4} (h : sizeOk m = true) : sizeOperand m = .ok m.toNat := by
  simp [sizeOperand, h]

theorem sizeOperand_of_not_ok {m : BitVec 4} (h : sizeOk m = false) : sizeOperand m = .error ⟨.badParam, 0#2⟩ := by
  simp [sizeOperand, h]

/-! ### Planes -/

theorem validatePlane_of_ok {pl : Platform} {l : Latch} {c : Fin 3} (h : PlaneOk pl l c) :
    validatePlane pl l c = .ok (l.plane c) := by
  have hw := h.width
  have hh := h.height
  have hs := h.stride
  have hi := h.inside
  have hw0 : (l.plane c).width ≠ 0#16 := by intro h0; simp [h0] at hw
  have hh0 : (l.plane c).height ≠ 0#16 := by intro h0; simp [h0] at hh
  simp only [validatePlane, h.present]
  rw [if_neg (by simp), if_neg (by simp [hw0, hh0]), if_neg (by omega), if_neg (by omega), if_neg (by omega)]

/-- Validation passes exactly the planes of `PlaneOk`, and answers their registers. -/
theorem validatePlane_ok_iff {pl : Platform} {l : Latch} {c : Fin 3} {p : PlaneRegs} :
    validatePlane pl l c = .ok p ↔ PlaneOk pl l c ∧ p = (l.plane c) := by
  refine ⟨fun h => ?_, fun ⟨h, hp⟩ => hp ▸ validatePlane_of_ok h⟩
  simp only [validatePlane] at h
  split_ifs at h with h1 h2 h3 h4 h5
  refine ⟨⟨by simpa using h1, by omega, by omega, by omega, by omega⟩, by simpa using h.symm⟩

/-- Everything reducing a plane can answer: the validation's error, BUS_ERROR for a read fault, or the 64 means. -/
theorem reducePlane_cases (s : State) (l : Latch) (c : Fin 3) :
    (∃ e, validatePlane s.platform l c = .error e ∧ reducePlane s l c = .error e) ∨
    (PlaneOk s.platform l c ∧ planeReadFaults s.platform (l.plane c) = true ∧
      reducePlane s l c = .error ⟨.busError, chBits c⟩) ∨
    (PlaneOk s.platform l c ∧ planeReadFaults s.platform (l.plane c) = false ∧
      reducePlane s l c = .ok (planeMeans s l c (l.plane c))) := by
  rcases hv : validatePlane s.platform l c with e | p
  · exact .inl ⟨e, rfl, by simp [reducePlane, hv]⟩
  · obtain ⟨hp, rfl⟩ := validatePlane_ok_iff.mp hv
    rcases hf : planeReadFaults s.platform (l.plane c)
    · exact .inr (.inr ⟨hp, rfl, by simp only [reducePlane, hv, hf]; rfl⟩)
    · exact .inr (.inl ⟨hp, rfl, by simp only [reducePlane, hv, hf]; rfl⟩)

/-! ### The Host -/

theorem registerAccess_of_legal {off : BitVec 12} {t : State} (h : off.toNat % 4 = 0) :
    registerAccess off 32 t = .next t := by
  simp [registerAccess, h]

/-- Everything a register access can answer. -/
theorem registerAccess_cases (off : BitVec 12) (bits : Nat) (t : State) :
    (bits ≠ 32 ∧ registerAccess off bits t = .fault (.registerWidth off bits)) ∨
    (bits = 32 ∧ off.toNat % 4 ≠ 0 ∧ registerAccess off bits t = .fault (.registerMisaligned off)) ∨
    (bits = 32 ∧ off.toNat % 4 = 0 ∧ registerAccess off bits t = .next t) := by
  by_cases hb : bits = 32
  · by_cases ho : off.toNat % 4 = 0
    · exact .inr (.inr ⟨hb, ho, by simp [registerAccess, hb, ho]⟩)
    · exact .inr (.inl ⟨hb, ho, by simp [registerAccess, hb, ho]⟩)
  · exact .inl ⟨hb, by simp [registerAccess, hb]⟩

/-- After the two reads of RD64 the 64-bit value is formed from them, high word first (R100, R63). -/
theorem joinReads_of_reads {off a b : BitVec 12} {hi lo : Word} {rs : List (BitVec 12 × Word)} {s : State}
    (h : s.hostReads = (a, hi) :: (b, lo) :: rs) :
    joinReads off s = { s with hostWides := (off, hi ++ lo) :: s.hostWides } := by
  simp [joinReads, h]

/-- RD64's second read stays inside the register space except at its last word (R60, R100; log 19). -/
theorem highWordRead_of_lt {off : BitVec 12} (h : off.toNat + 4 < 4096) : highWordRead off = .regRead (off + 4#12) 32 := by
  simp [highWordRead, h]

theorem highWordRead_of_last {off : BitVec 12} (h : ¬off.toNat + 4 < 4096) : highWordRead off = .readBeyond (off.toNat + 4) := by
  simp [highWordRead, h]

/-! ### One step -/

theorem step_of_turn {s : State} {t : Turn} {rest : List Turn} (h : s.schedule = t :: rest) :
    step s = turnStep t { s with schedule := rest } := by
  simp [step, h]

theorem step_of_no_schedule {s : State} (h : s.schedule = []) :
    step s = if s.busy && s.platform.sampleMemLive then engineStep s else hostStep s := by
  simp [step, h]

/-- Who can move in a step. -/
theorem step_cases (s : State) :
    (∃ rest, s.schedule = .host :: rest ∧ step s = hostStep { s with schedule := rest }) ∨
    (∃ rest, s.schedule = .engine :: rest ∧ step s = engineStep { s with schedule := rest }) ∨
    (∃ rest, s.schedule = .hardReset :: rest ∧ step s = .next (resetDevice { s with schedule := rest })) ∨
    (s.schedule = [] ∧ (step s = engineStep s ∨ step s = hostStep s)) := by
  rcases h : s.schedule with _ | ⟨t, rest⟩
  · refine .inr (.inr (.inr ⟨rfl, ?_⟩))
    rw [step_of_no_schedule h]
    split
    · exact .inl rfl
    · exact .inr rfl
  · cases t
    · exact .inl ⟨rest, rfl, step_of_turn h⟩
    · exact .inr (.inl ⟨rest, rfl, step_of_turn h⟩)
    · exact .inr (.inr (.inl ⟨rest, rfl, step_of_turn h⟩))

end Sys2Proof.Machine
end

