-- ==== Sys2Proof/Laws/PerInstr.lean ====
section
/-! SUPPORT. Per-instruction families: what holds of each command as syntax. -/

namespace Sys2Proof.Laws.RowBits

/-- The mask of a command's row (R94). -/
def rowMask : Instr → Word
  | .nop => 0xFFFFFFFF#32
  | .reduce _ => 0xFFFFFCFF#32
  | .dct => 0xFFFFFFFF#32
  | .reorder _ => 0xFFFFFCFF#32
  | .runCh _ => 0xFFFFFCFF#32
  | .runFrame => 0xFFFFFFFF#32
  | .zzgen _ => 0xFFF0FFFF#32

/-- The match value of a command's row (R94). -/
def rowMatch : Instr → Word
  | .nop => 0x00000000#32
  | .reduce _ => 0x00000001#32
  | .dct => 0x00000002#32
  | .reorder _ => 0x00000003#32
  | .runCh _ => 0x00000004#32
  | .runFrame => 0x00000005#32
  | .zzgen _ => 0x00000006#32

/-- A command's word selects its own row of the opcode table (R94). -/
def Statement (i : Instr) : Prop := encode i &&& rowMask i = rowMatch i

theorem nop : Statement .nop := by unfold Statement; decide

theorem reduce (ch : BitVec 2) : Statement (.reduce ch) := by unfold Statement; revert ch; decide

theorem dct : Statement .dct := by unfold Statement; decide

theorem reorder (ch : BitVec 2) : Statement (.reorder ch) := by unfold Statement; revert ch; decide

theorem runCh (ch : BitVec 2) : Statement (.runCh ch) := by unfold Statement; revert ch; decide

theorem runFrame : Statement .runFrame := by unfold Statement; decide

theorem zzgen (m : BitVec 4) : Statement (.zzgen m) := by unfold Statement; revert m; decide

end Sys2Proof.Laws.RowBits
end

