-- ==== Sys2Proof/Tests/Slice0.lean ====
section
/-! SUPPORT. Tests on small states with results taken from spec/ (the vector of 95_test_vectors.md is named at each), and, for every
statement with hypotheses, a witness that meets them. -/

namespace Sys2Proof.Tests

open Sys2Proof Sys2Proof.Machine

/-! ### Helpers -/

/-- The next state of an outcome. -/
def outState (o : Host.Outcome State Fault Refusal) : State :=
  match o with
  | .next t => t
  | _ => State.reset

/-- The outcome is a fault. -/
def isFault (o : Host.Outcome State Fault Refusal) : Bool :=
  match o with
  | .fault _ => true
  | _ => false

/-- The state after command word `w` has run from `s`. -/
def afterWord (w : Nat) (s : State) : State := outState (step (s.withFetchWord 32 w))

/-- An 8 by 8 plane with no padding. -/
def plane8 (base : Word) : PlaneRegs := { base := base, width := 8, height := 8, stride := 8 }

/-- Reset, with all three channels on one 8 by 8 plane of 0 but for one sample of 255 at (0, 0). -/
def ready : State :=
  { State.reset with planes := Vector.replicate 3 (plane8 0x2000#32), chPresent := 7, mem := [(0x2000, 255#8)] }

/-- Channel 0's plane replaced by `p`, all channels present. -/
def withPlane (p : PlaneRegs) : State := { State.reset with planes := #v[p, plane8 0, plane8 0], chPresent := 7 }

/-- `s` with word `w` in flight. -/
def busyWith (w : Word) (s : State) : State := { s with latch := some (captureLatch w s) }

/-- The grid with entry `f r c` at row r and column c. -/
def gridOf (f : Nat → Nat → Nat) : BlockGrid := Vector.ofFn fun n : Fin 64 => BitVec.ofNat 64 (f (n.val / 8) (n.val % 8))

/-! ### WellFormed refuses each ill-formed operand (R98: "An assembler refuses REDUCE 3, ZZGEN 0 and ZZGEN 9") -/

theorem test_reduce_3_ill_formed : ¬(Instr.reduce 3#2).WellFormed := by decide
theorem test_reorder_3_ill_formed : ¬(Instr.reorder 3#2).WellFormed := by decide
theorem test_runCh_3_ill_formed : ¬(Instr.runCh 3#2).WellFormed := by decide
theorem test_zzgen_0_ill_formed : ¬(Instr.zzgen 0#4).WellFormed := by decide
theorem test_zzgen_9_ill_formed : ¬(Instr.zzgen 9#4).WellFormed := by decide
theorem test_zzgen_8_well_formed : (Instr.zzgen 8#4).WellFormed := by decide

/-! ### Decoding: words written out from R92 and R94 -/

theorem test_decode_nop : decodeTableWord 32 0b00000000000000000000000000000000 = some .nop := by decide
theorem test_decode_reduce_1 : decodeTableWord 32 0b00000000000000000000000100000001 = some (.reduce 1#2) := by decide
theorem test_decode_dct : decodeTableWord 32 0b00000000000000000000000000000010 = some .dct := by decide
theorem test_decode_reorder_2 : decodeTableWord 32 0b00000000000000000000001000000011 = some (.reorder 2#2) := by decide
theorem test_decode_runCh_2 : decodeTableWord 32 0b00000000000000000000001000000100 = some (.runCh 2#2) := by decide
theorem test_decode_runFrame : decodeTableWord 32 0b00000000000000000000000000000101 = some .runFrame := by decide
theorem test_decode_zzgen_3 : decodeTableWord 32 0b00000000000000110000000000000110 = some (.zzgen 3#4) := by decide
/-- 95 ER-5a, ER-5c, ER-5d, ER-5e, ER-5f: reserved opcode, or a reserved bit. -/
theorem test_decode_rejects :
    decodeTableWord 32 0x7 = none ∧ decodeTableWord 32 0x100 = none ∧ decodeTableWord 32 0x704 = none ∧
    decodeTableWord 32 0x30106 = none ∧ decodeTableWord 32 0x80000002 = none := by decide

/-! ### The commands, one step each (95: P5, ER, RO, ZZ, SR) -/

/-- R184, example. -/
theorem test_nop : lastErrWord (afterWord 0x0 ready) = 0#32 ∧ irqStatusWord (afterWord 0x0 ready) = 1#32 := by decide

/-- REDUCE 0 on `ready`: cell (0, 0) is its one sample; STATUS 0x2, LAST_ERR 0x100 (SR-1). -/
theorem test_reduce :
    regRead (afterWord 0x1 ready) 0x200#12 = 255#32 ∧ regRead (afterWord 0x1 ready) 0x208#12 = 0#32 ∧
    statusWord (afterWord 0x1 ready) = 0x2#32 ∧ lastErrWord (afterWord 0x1 ready) = 0x100#32 := by decide +kernel

/-- ER-3: REDUCE 3 is BAD_CHANNEL. -/
theorem test_reduce_3 : lastErrWord (afterWord 0x301 ready) = 0x00030102#32 := by decide

/-- ER-1: DCT from reset is NO_DATA. -/
theorem test_dct_no_data : lastErrWord (afterWord 0x2 State.reset) = 0x00000204#32 := by decide

/-- DC-4: CG[0][0] of the grid of 128 with 255 at BG[0][0], read through the CG window. -/
theorem test_dct_dc :
    let s := { ready with bg := some (gridOf fun r c => if r = 0 ∧ c = 0 then 255 else 128) }
    regRead (afterWord 0x2 s) 0x404#12 = 0x402FC000#32 ∧ regRead (afterWord 0x2 s) 0x400#12 = 0x00000002#32 := by
  decide +kernel

/-- RO-2: DESC[k=1] = CG[0][1], DESC[k=2] = CG[1][0], with CG entry n set to n; k = 2 of channel 1 is at 0xA10. -/
theorem test_reorder :
    let s := { ready with cg := some (Vector.ofFn fun n : Fin 64 => BitVec.ofNat 64 n.val) }
    regRead (afterWord 0x103 s) 0xA08#12 = 1#32 ∧ regRead (afterWord 0x103 s) 0xA10#12 = 8#32 := by decide +kernel

/-- ER-5g: REORDER 3 with no CG is BAD_CHANNEL, not NO_DATA. -/
theorem test_reorder_3 : lastErrWord (afterWord 0x303 State.reset) = 0x00030302#32 := by decide

/-- The DC term of a plane with mean c is at k = 0 of DESC[2]: `ready` is DC of 0s but for one 255; STATUS 0x46 and LAST_ERR 0x20400. -/
theorem test_runCh : statusWord (afterWord 0x204 ready) = 0x46#32 ∧ lastErrWord (afterWord 0x204 ready) = 0x00020400#32 := by
  decide +kernel

/-- P4: STATUS 0x76 and LAST_ERR 0x500 after RUN_FRAME. -/
theorem test_runFrame : statusWord (afterWord 0x5 ready) = 0x76#32 ∧ lastErrWord (afterWord 0x5 ready) = 0x00000500#32 := by
  decide +kernel

/-- ER-9: RUN_FRAME with W = 7 on channel 1. -/
theorem test_runFrame_degenerate :
    lastErrWord (afterWord 0x5 { ready with planes := ready.planes.set 1 { plane8 0 with width := 7 } }) = 0x00010506#32 := by
  decide +kernel

/-- P1: ZZGEN 3. -/
theorem test_zzgen :
    statusWord (afterWord 0x30006 ready) = 0x00030000#32 ∧ regRead (afterWord 0x30006 ready) 0x70C#12 = 6#32 ∧
    regRead (afterWord 0x30006 ready) 0x724#12 = 0#32 := by decide +kernel

/-- ER-4b: ZZGEN 9. -/
theorem test_zzgen_9 : lastErrWord (afterWord 0x90006 ready) = 0x00000603#32 := by decide

/-! ### Plane checks at their boundaries (95 ER-6 to ER-11) -/

theorem test_plane_absent : lastErrWord (afterWord 0x1 { ready with chPresent := 6 }) = 0x105#32 := by decide +kernel
theorem test_plane_stride_short :
    lastErrWord (afterWord 0x1 (withPlane { base := 0, width := 16, height := 16, stride := 15 })) = 0x105#32 := by decide +kernel
theorem test_plane_stride_before_size :
    lastErrWord (afterWord 0x1 (withPlane { base := 0, width := 4, height := 4, stride := 2 })) = 0x105#32 := by decide +kernel
theorem test_plane_last_byte_inside :
    lastErrWord (afterWord 0x1 (withPlane { base := 0xFFC0, width := 8, height := 8, stride := 8 })) = 0x100#32 := by decide +kernel
theorem test_plane_last_byte_outside :
    lastErrWord (afterWord 0x1 (withPlane { base := 0xFFC1, width := 8, height := 8, stride := 8 })) = 0x107#32 := by decide +kernel
/-- ER-11: a platform fault on one sample. -/
theorem test_platform_fault :
    lastErrWord (afterWord 0x4 { withPlane (plane8 0x100#32) with
      platform := { sampleMemSize := 0x10000, faultRanges := [⟨0x105, 0x106⟩], sampleMemLive := true } }) = 0x407#32 := by
  decide +kernel

/-! ### Tables and arithmetic -/

/-- RB-E5, RB-E14. -/
theorem test_edges :
    (List.range 9).map (fun e => edge e 12) = [0, 2, 3, 5, 6, 8, 9, 11, 12] ∧
    (List.range 9).map (fun e => edge e 65535) = [0, 8192, 16384, 24576, 32768, 40959, 49151, 57343, 65535] := by decide

/-- ZZ-3. -/
theorem test_zigzag_3 : zigzag 3 = [0, 1, 3, 6, 4, 2, 5, 7, 8] := by decide

/-- Rows 1 and 4 of R145's table. -/
theorem test_cosine_rows :
    (List.range 8).map (cosTable 1) =
      [0x3FF0000000000000#64, 0x3FEA9B66290EA1A3#64, 0x3FD87DE2A6AEA963#64, 0xBFC8F8B83C69A60B#64,
       0xBFE6A09E667F3BCD#64, 0xBFEF6297CFF75CB0#64, 0xBFED906BCF328D46#64, 0xBFE1C73B39AE68C8#64] ∧
    (List.range 8).map (cosTable 4) =
      [0x3FF0000000000000#64, 0xBFC8F8B83C69A60B#64, 0xBFED906BCF328D46#64, 0x3FE1C73B39AE68C8#64,
       0x3FE6A09E667F3BCD#64, 0xBFEA9B66290EA1A3#64, 0xBFD87DE2A6AEA963#64, 0x3FEF6297CFF75CB0#64] := by decide +kernel

/-- DC-4: A0 ⊗ A0 is one unit above 1/8; A0 ⊗ A1 and A1 ⊗ A1. -/
theorem test_alpha_products :
    f64Mul alphaDC alphaDC = 0x3FC0000000000001#64 ∧ f64Mul alphaDC alphaAC = 0x3FC6A09E667F3BCD#64 ∧
    f64Mul alphaAC alphaAC = 0x3FD0000000000000#64 := by decide +kernel

/-- R148: x ⊕ −x = +0.0 and +0.0 ⊕ −0.0 = +0.0. -/
theorem test_add_zero_signs :
    f64Add 0x3FF0000000000000#64 0xBFF0000000000000#64 = 0#64 ∧ f64Add 0#64 f64NegZero = 0#64 := by decide +kernel

/-- DC-5 and DC-6: a grid and its transpose do not give transposed bits. -/
theorem test_dct_order :
    dctCoeff (gridOf fun _ c => 16 * c + 8) 1 0 = 0xC07238BD7A03D9D6#64 ∧
    dctCoeff (gridOf fun r _ => 16 * r + 8) 0 1 = 0xC07238BD7A03D9D2#64 := by decide +kernel

/-! ### Register accesses (95 RA-1 to RA-4, OV-1) -/

theorem test_width_reserved_bits : regRead (regWrite State.reset 0x044#12 0x12345678#32) 0x044#12 = 0x5678#32 := by decide +kernel
theorem test_w1c : irqStatusWord (regWrite { ready with irqDone := true, irqErr := true, irqOverrun := true } 0x018#12 2#32) = 5#32 := by
  decide +kernel
theorem test_bad_accesses :
    isFault (hostAccess (.regRead 0x000#12 16) ready) = true ∧ isFault (hostAccess (.regRead 0x002#12 32) ready) = true ∧
    isFault (hostAccess (.regWrite 0x00E#12 32 1#32) ready) = true := by decide +kernel
/-- P2: `RD64 0x400 -> cg0` reads 0x00000001 and 0xC0100000 and forms 0xC010000000000001. -/
theorem test_rd64_join :
    hostAccesses [.rd64 0x400#12] = [.regRead 0x400#12 32, .regRead 0x404#12 32, .join 0x400#12] ∧
    (joinReads 0x400#12 { ready with hostReads := [(0x404#12, 0xC0100000#32), (0x400#12, 0x00000001#32)] }).hostWides =
      [(0x400#12, 0xC010000000000001#64)] := by decide +kernel
/-- OV-1: a second CMD write before the completion. -/
theorem test_overrun :
    let s := regWrite (regWrite { ready with irqEn := 6 } 0x00C#12 0#32) 0x00C#12 5#32
    statusWord s = 1#32 ∧ irqStatusWord s = 4#32 ∧ irqOutput s = true := by decide +kernel

/-! ### Witnesses: concrete states and operands that meet the hypotheses of each statement -/

theorem witness_EncodeOfDecode : decode 0x00000101#32 = .ok (.reduce 1#2) := by decide

theorem witness_StepRunsTheDecodedCommand :
    (busyWith 0x2#32 ready).latch = some (captureLatch 0x2#32 ready) ∧ decode (captureLatch 0x2#32 ready).cmd = .ok .dct ∧
    { busyWith 0x2#32 ready with schedule := [.engine] }.schedule = .engine :: [] ∧
    (busyWith 0x2#32 ready).schedule = [] ∧ (busyWith 0x2#32 ready).platform.sampleMemLive = true ∧
    decodeTableWord 32 0x2 = some .dct := by decide

theorem witness_BadWordsEndInErrorCompletion :
    (busyWith 0x301#32 ready).latch = some (captureLatch 0x301#32 ready) ∧
    decodeCommand (captureLatch 0x301#32 ready).cmd = .error ⟨.badChannel, 3#2⟩ ∧
    decodeCommand 0x00090006#32 = .error ⟨.badParam, 0#2⟩ ∧ decodeCommand 0x00000007#32 = .error ⟨.illegalCmd, 0#2⟩ := by decide

theorem witness_EngineStepAlwaysCompletes : (busyWith 0xFFFFFFFF#32 ready).latch = some (captureLatch 0xFFFFFFFF#32 ready) := rfl

theorem witness_CommandWriteIsAcceptedOrOverruns :
    ready.latch = none ∧ (busyWith 0x0#32 ready).latch = some (captureLatch 0x0#32 ready) := ⟨rfl, rfl⟩

theorem witness_EngineIsEventuallyIdle :
    let s := { busyWith 0x2#32 ready with schedule := [.host, .hardReset], hostProgram := [.poll 0x010#12 1#32 0#32] }
    s.platform.sampleMemLive = true ∧ ∀ op ∈ s.hostProgram, op.legal = true := by decide

theorem witness_BothOrdersOfAccessAndCompletion :
    (busyWith 0x0#32 ready).latch = some (captureLatch 0x0#32 ready) ∧ (0xFFFFFFFF#32).getLsbD 0 = true ∧
    (0xFFFFFFFF#32).getLsbD 1 = true := by decide

theorem witness_IssueThenWaitRunsTheCommand :
    State.reset.latch = none ∧ State.reset.schedule = [] ∧ State.reset.platform.sampleMemLive = true := by decide

/-- Every channel of `ready` has a plane that passes R123, whatever word is in flight. -/
theorem ready_planeOk (w : Word) (c : Fin 3) : PlaneOk ready.platform (captureLatch w ready) c := by
  have h : PlaneOk ready.platform (captureLatch 0#32 ready) c := by constructor <;> revert c <;> decide
  exact ⟨h.present, h.width, h.height, h.stride, h.inside⟩

theorem ready_readsClean (p : PlaneRegs) : ReadsClean ready.platform p := fun _ _ => rfl

/-- Each clause at a boundary: the last entry of DESC[2], a command in flight, and the last word of the register space. -/
theorem witness_Rd64ReadsTwoWordsAndJoinsThem :
    (0xDF8#12).toNat % 4 = 0 ∧ (0xDF8#12).toNat + 4 < 4096 ∧ (0xFF8#12).toNat % 4 = 0 ∧ (0xFF8#12).toNat + 4 < 4096 ∧
    (0xFFC#12).toNat % 4 = 0 ∧ State.reset.latch = none ∧ State.reset.schedule = [] ∧
    (busyWith 0x1#32 ready).latch = some (captureLatch 0x1#32 ready) := by decide

theorem witness_NopOnlyCompletes : (busyWith 0x0#32 ready).latch = some (captureLatch 0x0#32 ready) := rfl

theorem witness_ReduceCommitsTheCellMeans :
    (busyWith 0x201#32 ready).latch = some (captureLatch 0x201#32 ready) ∧
    PlaneOk (busyWith 0x201#32 ready).platform (captureLatch 0x201#32 ready) 2 ∧
    ReadsClean (busyWith 0x201#32 ready).platform ((captureLatch 0x201#32 ready).plane 2) :=
  ⟨rfl, ready_planeOk _ 2, ready_readsClean _⟩

/-- One plane for each check of R123 at its boundary; the last is one byte too far (ER-10b), where `test_plane_last_byte_inside` passes. -/
theorem witness_FirstFailedPlaneCheckIsReported :
    (let s := { ready with chPresent := 6 }
     ¬PlaneOk s.platform (captureLatch 0x1#32 s) 0 ∧ planeErrorCode (captureLatch 0x1#32 s) 0 = 5#4) ∧
    (let s := withPlane { plane8 0 with width := 0 }
     ¬PlaneOk s.platform (captureLatch 0x1#32 s) 0 ∧ planeErrorCode (captureLatch 0x1#32 s) 0 = 5#4) ∧
    (let s := withPlane { plane8 0 with stride := 7 }
     ¬PlaneOk s.platform (captureLatch 0x1#32 s) 0 ∧ planeErrorCode (captureLatch 0x1#32 s) 0 = 5#4) ∧
    (let s := withPlane { plane8 0 with height := 7 }
     ¬PlaneOk s.platform (captureLatch 0x1#32 s) 0 ∧ planeErrorCode (captureLatch 0x1#32 s) 0 = 6#4) ∧
    (let s := withPlane (plane8 0xFFC1#32)
     ¬PlaneOk s.platform (captureLatch 0x1#32 s) 0 ∧ planeErrorCode (captureLatch 0x1#32 s) 0 = 7#4) := by
  refine ⟨⟨fun h => ?_, by decide⟩, ⟨fun h => ?_, by decide⟩, ⟨fun h => ?_, by decide⟩, ⟨fun h => ?_, by decide⟩,
    ⟨fun h => ?_, by decide⟩⟩
  · exact absurd h.present (by decide)
  · exact absurd h.width (by decide)
  · exact absurd h.stride (by decide)
  · exact absurd h.height (by decide)
  · exact absurd h.inside (by decide)

/-- `ready` on a platform that faults on the last sample of its plane. -/
def faulting : State :=
  { ready with platform := { sampleMemSize := 0x10000, faultRanges := [⟨0x203F, 0x2040⟩], sampleMemLive := true } }

theorem witness_ReadFaultIsBusError :
    (busyWith 0x1#32 faulting).latch = some (captureLatch 0x1#32 faulting) ∧
    PlaneOk (busyWith 0x1#32 faulting).platform (captureLatch 0x1#32 faulting) 0 ∧
    InReadSet ((captureLatch 0x1#32 faulting).plane 0) 0x203F ∧ sampleReadFault (busyWith 0x1#32 faulting).platform 0x203F = true :=
  ⟨rfl, by constructor <;> decide, ⟨7, 7, by decide, by decide, by decide⟩, by decide⟩

theorem witness_OperandOutOfRangeIsReportedFirst :
    (busyWith 0x6#32 ready).latch = some (captureLatch 0x6#32 ready) ∧ ((0#4).toNat = 0 ∨ 8 < (0#4).toNat) ∧
    ((9#4).toNat = 0 ∨ 8 < (9#4).toNat) := by decide

theorem witness_DctCommitsDctRefOrNoData :
    (busyWith 0x2#32 ready).latch = some (captureLatch 0x2#32 ready) ∧
    { busyWith 0x2#32 ready with bg := some (Vector.replicate 64 128#64) }.bg = some (Vector.replicate 64 128#64) ∧
    (busyWith 0x2#32 ready).bg = none := ⟨rfl, rfl, rfl⟩

theorem witness_ReorderCommitsZigzagOrder :
    (busyWith 0x3#32 ready).latch = some (captureLatch 0x3#32 ready) ∧
    { busyWith 0x3#32 ready with cg := some (Vector.replicate 64 0#64) }.cg = some (Vector.replicate 64 0#64) ∧
    (busyWith 0x3#32 ready).cg = none := ⟨rfl, rfl, rfl⟩

theorem witness_ReorderIsAPermutation :
    { busyWith 0x3#32 ready with cg := some (Vector.replicate 64 0#64) }.latch = some (captureLatch 0x3#32 ready) ∧
    { busyWith 0x3#32 ready with cg := some (Vector.replicate 64 0#64) }.cg = some (Vector.replicate 64 0#64) := ⟨rfl, rfl⟩

theorem witness_ZzgenCommitsItsTable :
    (busyWith 0x10006#32 ready).latch = some (captureLatch 0x10006#32 ready) ∧ 1 ≤ (1#4).toNat ∧ (8#4).toNat ≤ 8 := by decide

theorem witness_RunChCommitsAllThreeResults :
    (busyWith 0x4#32 ready).latch = some (captureLatch 0x4#32 ready) ∧
    PlaneOk (busyWith 0x4#32 ready).platform (captureLatch 0x4#32 ready) 0 ∧
    ReadsClean (busyWith 0x4#32 ready).platform ((captureLatch 0x4#32 ready).plane 0) :=
  ⟨rfl, ready_planeOk _ 0, ready_readsClean _⟩

theorem witness_RunChEqualsItsThreeCommands :
    PlaneOk ready.platform (captureLatch 0 ready) 1 ∧ ReadsClean ready.platform (ready.plane 1) :=
  ⟨ready_planeOk _ 1, ready_readsClean _⟩

theorem witness_RunFrameCommitsThreeDescriptors :
    (busyWith 0x5#32 ready).latch = some (captureLatch 0x5#32 ready) ∧
    ∀ c : Fin 3, PlaneOk (busyWith 0x5#32 ready).platform (captureLatch 0x5#32 ready) c ∧
      ReadsClean (busyWith 0x5#32 ready).platform ((captureLatch 0x5#32 ready).plane c) :=
  ⟨rfl, fun c => ⟨ready_planeOk _ c, ready_readsClean _⟩⟩

theorem witness_RunFrameReportsTheFirstBadPlane :
    let s := { ready with planes := ready.planes.set 1 { plane8 0 with width := 7 } }
    (busyWith 0x5#32 s).latch = some (captureLatch 0x5#32 s) ∧
    (∀ d : Fin 3, d < 1 → PlaneOk (busyWith 0x5#32 s).platform (captureLatch 0x5#32 s) d) ∧
    ¬PlaneOk (busyWith 0x5#32 s).platform (captureLatch 0x5#32 s) 1 := by
  refine ⟨rfl, fun d hd => ?_, fun h => absurd h.width (by decide)⟩
  obtain rfl : d = 0 := by omega
  constructor <;> decide

theorem witness_RunFrameReadFaultIsBusError :
    let s := { faulting with planes := #v[plane8 0, plane8 0x1000#32, plane8 0x2000#32] }
    (busyWith 0x5#32 s).latch = some (captureLatch 0x5#32 s) ∧
    (∀ d : Fin 3, PlaneOk (busyWith 0x5#32 s).platform (captureLatch 0x5#32 s) d) ∧
    (∀ d : Fin 3, d < 2 → ReadsClean (busyWith 0x5#32 s).platform ((captureLatch 0x5#32 s).plane d)) ∧
    InReadSet ((captureLatch 0x5#32 s).plane 2) 0x203F ∧ sampleReadFault (busyWith 0x5#32 s).platform 0x203F = true := by
  refine ⟨rfl, fun d => ?_, fun d hd a ha => ?_, ⟨7, 7, by decide, by decide, by decide⟩, by decide⟩
  · constructor <;> revert d <;> decide
  · obtain ⟨x, y, hx, hy, rfl⟩ := ha
    have hcase : d = 0 ∨ d = 1 := by omega
    rcases hcase with rfl | rfl <;>
      simp [busyWith, captureLatch, Latch.plane, plane8, faulting, sampleReadFault] at hx hy ⊢ <;> omega

theorem witness_ErrorsChangeOnlyLastErrAndIrqErr :
    (busyWith 0x2#32 ready).latch = some (captureLatch 0x2#32 ready) ∧
    ∃ t, exec .dct (busyWith 0x2#32 ready) = .next t ∧ t.lastCode ≠ 0 := ⟨rfl, _, rfl, by decide⟩

theorem witness_SuccessRecordsItsCommand :
    (busyWith 0x0#32 ready).latch = some (captureLatch 0x0#32 ready) ∧
    ∃ t, exec .nop (busyWith 0x0#32 ready) = .next t ∧ t.lastCode = 0 := ⟨rfl, _, rfl, rfl⟩

theorem witness_CommandsLeaveTheRestAlone : ∃ t, exec (.zzgen 3#4) (busyWith 0x30006#32 ready) = .next t := ⟨_, rfl⟩

theorem witness_CommandsWriteOnlyTheirBuffers :
    (∃ t, exec .nop (busyWith 0x0#32 ready) = .next t) ∧ (∃ t, exec (.reduce 3#2) (busyWith 0x301#32 ready) = .next t) ∧
    (∃ t, exec .dct (busyWith 0x2#32 ready) = .next t) ∧ (∃ t, exec (.reorder 0#2) (busyWith 0x3#32 ready) = .next t) ∧
    (∃ t, exec (.zzgen 8#4) (busyWith 0x80006#32 ready) = .next t) ∧
    (∃ t, exec (.runCh 3#2) (busyWith 0x304#32 ready) = .next t) ∧
    ∃ t, exec .runFrame (busyWith 0x5#32 State.reset) = .next t :=
  ⟨⟨_, rfl⟩, ⟨_, rfl⟩, ⟨_, rfl⟩, ⟨_, rfl⟩, ⟨_, rfl⟩, ⟨_, rfl⟩, ⟨_, rfl⟩⟩

/-- The ends of each range of offsets, and of CTRL's bit 0. -/
theorem witness_ConstantReservedAndReadOnlyOffsets :
    (0xFFFFFFFE#32).getLsbD 0 = false ∧
    ∀ off ∈ [0x024#12, 0x03F#12, 0x070#12, 0x1FF#12, 0xE00#12, 0xFFF#12],
      0x024 ≤ off.toNat ∧ off.toNat ≤ 0x03F ∨ 0x070 ≤ off.toNat ∧ off.toNat ≤ 0x1FF ∨ 0xE00 ≤ off.toNat := by decide

theorem witness_BufferWindowsReadTheirEntries :
    (none = ready.bg ∧ (0x200 : Nat) = 0x200) ∧
    (some (Vector.replicate 64 7#64) = { ready with cg := some (Vector.replicate 64 7#64) }.cg ∧ (0x400 : Nat) = 0x400) ∧
    ∃ c : Fin 3, none = ready.desc[c.val] ∧ (0xC00 : Nat) = 0x800 + 0x200 * c.val := ⟨⟨rfl, rfl⟩, ⟨rfl, rfl⟩, 2, rfl, rfl⟩

theorem witness_ZigzagWindowsReadTheirTables :
    ready.zzgen = none ∧ { ready with zzgen := some { m := 3, entries := zigzagTable 3 } }.zzgen =
      some { m := 3, entries := zigzagTable 3 } := ⟨rfl, rfl⟩

theorem witness_HostAccessesFaultOrTakeEffect :
    ((16 : Nat) ≠ 32 ∨ (0x000#12).toNat % 4 ≠ 0) ∧ ((32 : Nat) ≠ 32 ∨ (0x00E#12).toNat % 4 ≠ 0) ∧ (0xFFC#12).toNat % 4 = 0 := by
  decide

theorem witness_ResetsClearTheDevice : (1#32).getLsbD 0 = true := by decide

theorem witness_ConfigurationWritesDoNotReachTheCommandInFlight :
    (busyWith 0x1#32 ready).latch = some (captureLatch 0x1#32 ready) ∧
    ∀ off ∈ [0x040#12, 0x06F#12, 0x01C#12, 0x020#12],
      0x040 ≤ off.toNat ∧ off.toNat < 0x070 ∨ off = 0x01C#12 ∨ off = 0x020#12 := by decide

/-- A byte just below the planes of `ready` differs. -/
theorem witness_OnlySamplesInTheReadSetMatter :
    (busyWith 0x1#32 ready).latch = some (captureLatch 0x1#32 ready) ∧
    Memory.read [(0x1FFF, 1#8), (0x2000, 255#8)] 0x1FFF ≠ Memory.read (busyWith 0x1#32 ready).mem 0x1FFF ∧
    ∀ (c : Fin 3) (a : Nat), InReadSet ((captureLatch 0x1#32 ready).plane c) a →
      Memory.read [(0x1FFF, 1#8), (0x2000, 255#8)] a = Memory.read (busyWith 0x1#32 ready).mem a := by
  refine ⟨rfl, by decide, fun c a ha => ?_⟩
  obtain ⟨x, y, -, -, rfl⟩ := ha
  have hb : ((captureLatch 0x1#32 ready).plane c).base.toNat = 0x2000 := by revert c; decide
  have hne : ¬((captureLatch 0x1#32 ready).plane c).base.toNat + y * ((captureLatch 0x1#32 ready).plane c).stride.toNat + x = 0x1FFF := by
    omega
  show Memory.read [(0x1FFF, 1#8), (0x2000, 255#8)] _ = Memory.read [(0x2000, 255#8)] _
  simp only [Memory.read, hne, if_false]

theorem witness_SampleReadsReturnAValueHeld :
    Memory.wf ready.mem ∧ (busyWith 0x1#32 ready).latch = some (captureLatch 0x1#32 ready) ∧
    (∀ d ∈ (captureLatch 0x1#32 ready).overwritten, d.1 ≠ 0x2000) ∧
    bytesHeld (writeSample 0x2000 9#8 (busyWith 0x1#32 ready))
      { captureLatch 0x1#32 ready with overwritten := [(0x2000, 255#8)] } 0x2000 = [9#8, 255#8] := by decide

theorem witness_CellsPartitionThePlane : (0 : Nat) < 8 ∧ (7 : Nat) < 8 ∧ edge 7 8 ≤ 7 ∧ 7 < edge 8 8 ∧ edge 7 7 = 6 ∧ edge 0 7 = edge 0 0 := by
  decide

theorem gridInRange_replicate_128 : GridInRange (Vector.replicate 64 128#64) := fun n => by simp

/-- A state with a valid BG that meets the invariant, and takes a step. -/
theorem witness_StepKeepsTheInvariant :
    let s := { busyWith 0x0#32 ready with bg := some (Vector.replicate 64 128#64) }
    Inv s ∧ ∃ t, step s = .next t := by
  refine ⟨⟨by decide, by decide, fun g hg => ?_, fun v hv => ?_, fun ch d hd => ?_, fun t ht => ?_, by decide⟩, _, rfl⟩
  · obtain rfl : Vector.replicate 64 128#64 = g := by simpa using hg
    exact gridInRange_replicate_128
  · simp [busyWith, ready, State.reset] at hv
  · have : (Vector.replicate 3 none : Vector (Option Descriptor) 3)[ch.val] = some d := hd
    simp at this
  · simp [busyWith, ready, State.reset] at ht

theorem witness_ValidBuffersHoldLegalValues :
    Inv { busyWith 0x0#32 ready with bg := some (Vector.replicate 64 128#64) } := witness_StepKeepsTheInvariant.1

theorem witness_OnlyBadHostAccessesStopTheMachine :
    ∃ f, step { ready with hostProgram := [.regRead 0x002#12 32] } = .fault f := ⟨_, rfl⟩

theorem witness_OnlyTheHostWritesSampleMemory :
    Memory.wf ready.mem ∧ ∃ t, step { ready with hostProgram := [.mem8 0xFFFFFFFF#32 1#8] } = .next t := ⟨by decide, _, rfl⟩

theorem witness_CellMeanNeedsNoWideArithmetic :
    8 ≤ (plane8 0).width.toNat ∧ 8 ≤ (plane8 0).height.toNat ∧
    ∀ a ∈ cellAddrs (plane8 0) 0 0, sampleByte State.reset (captureLatch 0 State.reset) 0 a = 0#8 := by decide

theorem witness_AdditionIsCorrectlyRounded :
    f64Finite 0x3FF0000000000000#64 = true ∧ f64Finite 0x3CA0000000000000#64 = true ∧
    f64Finite (f64Add 0x3FF0000000000000#64 0x3CA0000000000000#64) = true ∧
    f64Finite (f64Add 0x7FEFFFFFFFFFFFFF#64 0x7FEFFFFFFFFFFFFF#64) = false ∧ f64Add f64NegZero f64NegZero = f64NegZero := by
  decide +kernel

theorem witness_MultiplicationIsCorrectlyRounded :
    f64Finite 0x7FEFFFFFFFFFFFFF#64 = true ∧ f64Finite (f64Mul 0x7FEFFFFFFFFFFFFF#64 0x4000000000000000#64) = false ∧
    f64Finite (f64Mul alphaDC alphaDC) = true := by decide +kernel

theorem witness_DctRefIsFiniteAndNeverNegativeZero : GridInRange (Vector.replicate 64 128#64) := gridInRange_replicate_128

theorem witness_DctRefIsAccurate : GridInRange (Vector.replicate 64 128#64) := gridInRange_replicate_128

end Sys2Proof.Tests
end

/-! SUPPORT. What each agent's step can do to the state, and O50: sample memory changes only by a Host write. -/

namespace Sys2Proof.Machine

/-- `s` with the four result buffers replaced: all that the commits of a command can do (R22). -/
def State.withBuffers (s : State) (bg : Option BlockGrid) (cg : Option CoeffGrid)
    (desc : Vector (Option Descriptor) 3) (zzgen : Option ZzTable) : State :=
  { s with bg := bg, cg := cg, desc := desc, zzgen := zzgen }

/-- `t` is `s` with commits applied: nothing but result buffers differs. -/
def CommitsOnly (s t : State) : Prop := ∃ bg cg desc zzgen, t = s.withBuffers bg cg desc zzgen

theorem CommitsOnly.refl (s : State) : CommitsOnly s s := ⟨s.bg, s.cg, s.desc, s.zzgen, rfl⟩

theorem CommitsOnly.blockGrid {s t : State} (g : BlockGrid) (h : CommitsOnly s t) : CommitsOnly s (commitBlockGrid g t) := by
  obtain ⟨_, cg, desc, zzgen, rfl⟩ := h
  exact ⟨some g, cg, desc, zzgen, rfl⟩

theorem CommitsOnly.coeffGrid {s t : State} (v : CoeffGrid) (h : CommitsOnly s t) : CommitsOnly s (commitCoeffGrid v t) := by
  obtain ⟨bg, _, desc, zzgen, rfl⟩ := h
  exact ⟨bg, some v, desc, zzgen, rfl⟩

theorem CommitsOnly.descriptor {s t : State} (c : Fin 3) (d : Descriptor) (h : CommitsOnly s t) :
    CommitsOnly s (commitDescriptor c d t) := by
  obtain ⟨bg, cg, desc, zzgen, rfl⟩ := h
  exact ⟨bg, cg, desc.set c.val (some d), zzgen, rfl⟩

theorem CommitsOnly.zigzag {s t : State} (z : ZzTable) (h : CommitsOnly s t) : CommitsOnly s (commitZigzag z t) := by
  obtain ⟨bg, cg, desc, _, rfl⟩ := h
  exact ⟨bg, cg, desc, some z, rfl⟩

theorem bind_eq_ok {α β : Type} {x : Except CmdError α} {f : α → Except CmdError β} {b : β} :
    (x >>= f) = .ok b ↔ ∃ a, x = .ok a ∧ f a = .ok b := by
  cases x <;> simp [bind, Except.bind]

theorem pure_eq_ok {α : Type} {a b : α} : (pure a : Except CmdError α) = .ok b ↔ a = b := by
  simp [pure, Except.pure]

/-- Everything the Engine can do to a state `s`: leave it (idle), complete with success after commits, or take an error. -/
inductive EngineResult (s : State) : State → Prop
  | idle : s.latch = none → EngineResult s s
  | success {l : Latch} {t : State} (ch : BitVec 2) : s.latch = some l → CommitsOnly s t → EngineResult s (succeed l.cmd ch t)
  | error {l : Latch} (e : CmdError) : s.latch = some l → EngineResult s (takeError l.cmd e s)

theorem complete_engineResult {ch : BitVec 2} {body : Latch → Except CmdError State} {s : State}
    (hbody : ∀ l t, body l = .ok t → CommitsOnly s t) : ∃ t, complete ch body s = .next t ∧ EngineResult s t := by
  obtain ⟨hl, ho⟩ | ⟨l, t, hl, hb, ho⟩ | ⟨l, e, hl, -, ho⟩ := complete_cases (rfl : complete ch body s = _)
  · exact ⟨s, ho, .idle hl⟩
  · exact ⟨_, ho, .success ch hl (hbody l t hb)⟩
  · exact ⟨_, ho, .error e hl⟩

theorem exec_engineResult (i : Instr) (s : State) : ∃ t, exec i s = .next t ∧ EngineResult s t := by
  cases i with
  | nop =>
    refine complete_engineResult (ch := 0#2) (body := fun _ => .ok s) fun l t h => ?_
    cases h
    exact .refl s
  | reduce ch =>
    refine complete_engineResult fun l t h => ?_
    simp only [bind_eq_ok, pure_eq_ok] at h
    obtain ⟨c, -, g, -, rfl⟩ := h
    exact (CommitsOnly.refl s).blockGrid g
  | dct =>
    refine complete_engineResult fun l t h => ?_
    split at h <;> cases h
    exact (CommitsOnly.refl s).coeffGrid _
  | reorder ch =>
    refine complete_engineResult fun l t h => ?_
    obtain ⟨c, -, h⟩ := bind_eq_ok.mp h
    split at h <;> cases h
    exact (CommitsOnly.refl s).descriptor c _
  | runCh ch =>
    refine complete_engineResult fun l t h => ?_
    simp only [bind_eq_ok, pure_eq_ok] at h
    obtain ⟨c, -, g, -, rfl⟩ := h
    exact (((CommitsOnly.refl s).blockGrid g).coeffGrid _).descriptor c _
  | runFrame =>
    refine complete_engineResult fun l t h => ?_
    simp only [bind_eq_ok, pure_eq_ok] at h
    obtain ⟨_, -, _, -, _, -, g0, -, g1, -, g2, -, rfl⟩ := h
    exact (((((CommitsOnly.refl s).blockGrid g2).coeffGrid _).descriptor 0 _).descriptor 1 _).descriptor 2 _
  | zzgen m =>
    refine complete_engineResult fun l t h => ?_
    simp only [bind_eq_ok, pure_eq_ok] at h
    obtain ⟨k, -, rfl⟩ := h
    exact (CommitsOnly.refl s).zigzag _

theorem engineStep_engineResult (s : State) : ∃ t, engineStep s = .next t ∧ EngineResult s t := by
  rcases hl : s.latch with _ | l
  · exact ⟨s, by simp [engineStep, hl], .idle hl⟩
  · rcases hd : decode l.cmd with r | i
    · exact ⟨takeError l.cmd ⟨.illegalCmd, 0#2⟩ s, by simp only [engineStep, hl, hd], .error _ hl⟩
    · simpa only [engineStep, hl, hd] using exec_engineResult i s

theorem EngineResult.mem {s t : State} (h : EngineResult s t) : t.mem = s.mem := by
  cases h with
  | idle => rfl
  | success ch _ hc => obtain ⟨_, _, _, _, rfl⟩ := hc; rfl
  | error => rfl

theorem EngineResult.platform {s t : State} (h : EngineResult s t) : t.platform = s.platform := by
  cases h with
  | idle => rfl
  | success ch _ hc => obtain ⟨_, _, _, _, rfl⟩ := hc; rfl
  | error => rfl

@[simp] theorem issue_mem (w : Word) (s : State) : (issue w s).mem = s.mem := by unfold issue; split <;> rfl
@[simp] theorem issue_platform (w : Word) (s : State) : (issue w s).platform = s.platform := by unfold issue; split <;> rfl

/-- A register write reaches neither sample memory nor the platform, whichever register the offset names. -/
theorem regWrite_mem_platform (s : State) (off : BitVec 12) (v : Word) :
    (regWrite s off v).mem = s.mem ∧ (regWrite s off v).platform = s.platform := by
  simp only [regWrite]
  split
  · exact ⟨rfl, rfl⟩
  · split
    · split <;> simp
    all_goals simp

/-- A register access that stops nothing answers the state with its effect. -/
theorem eq_of_registerAccess_eq_next {off : BitVec 12} {bits : Nat} {t u : State}
    (h : registerAccess off bits t = .next u) : u = t := by
  obtain ⟨-, h'⟩ | ⟨-, -, h'⟩ | ⟨-, -, h'⟩ := registerAccess_cases off bits t <;> rw [h'] at h <;> cases h
  rfl

/-- From `s` to `t` the platform stays, and sample memory stays or takes the sample write that is the Host's next access. -/
def SampleMemoryFrame (s t : State) : Prop :=
  t.platform = s.platform ∧
  (t.mem = s.mem ∨ ∃ (a : BitVec 32) (b : Byte) (rest : List HostOp), s.hostProgram = .mem8 a b :: rest ∧
    t.mem = Memory.write s.mem a.toNat b)

theorem hostStep_sampleMemoryFrame {s t : State} (h : hostStep s = .next t) : SampleMemoryFrame s t := by
  rcases hp : s.hostProgram with _ | ⟨op, rest⟩
  · simp only [hostStep, hp] at h
    cases h
    exact ⟨rfl, .inl rfl⟩
  · simp only [hostStep, hp] at h
    cases op with
    | regRead off bits =>
      obtain rfl := eq_of_registerAccess_eq_next h
      exact ⟨rfl, .inl rfl⟩
    | regWrite off bits v =>
      obtain rfl := eq_of_registerAccess_eq_next h
      obtain ⟨hmem, hplatform⟩ := regWrite_mem_platform { s with hostProgram := rest } off v
      exact ⟨hplatform, .inl hmem⟩
    | poll off mask val =>
      obtain rfl := eq_of_registerAccess_eq_next h
      split <;> exact ⟨rfl, .inl rfl⟩
    | join off =>
      cases h
      exact ⟨joinReads_platform off _, .inl (joinReads_mem off _)⟩
    | readBeyond off => cases h
    | mem8 a b =>
      cases h
      exact ⟨rfl, .inr ⟨a, b, rest, hp, rfl⟩⟩

theorem engineStep_sampleMemoryFrame {s t : State} (h : engineStep s = .next t) : SampleMemoryFrame s t := by
  obtain ⟨u, hu, hr⟩ := engineStep_engineResult s
  cases hu.symm.trans h
  exact ⟨hr.platform, .inl hr.mem⟩

/-- The schedule is no part of the frame, so a step that takes a turn off it has the frame of the agent's move. -/
theorem step_sampleMemoryFrame {s t : State} (h : step s = .next t) : SampleMemoryFrame s t := by
  obtain ⟨rest, -, hs⟩ | ⟨rest, -, hs⟩ | ⟨rest, -, hs⟩ | ⟨-, hs | hs⟩ := step_cases s <;> rw [hs] at h
  · exact (hostStep_sampleMemoryFrame h :)
  · exact (engineStep_sampleMemoryFrame h :)
  · cases h
    exact ⟨rfl, .inl rfl⟩
  · exact engineStep_sampleMemoryFrame h
  · exact hostStep_sampleMemoryFrame h

/-- In canonical memory a write changes the written byte and no other. -/
theorem Memory.read_write {m : Memory} (hm : Memory.wf m) (a x : Nat) (v : Byte) :
    Memory.read (Memory.write m a v) x = if x = a then v else Memory.read m x := by
  split
  · next h => rw [h, Memory.read_write_same hm]
  · next h => exact Memory.read_write_other h

/-- Settles O50: only the Host's move reaches sample memory, by its sample write, and `Memory.read_write` says what that
write changes. -/
theorem onlyTheHostWritesSampleMemory : Obligations.OnlyTheHostWritesSampleMemory := by
  intro s t hwf h
  obtain ⟨hplatform, hmem | ⟨a, b, rest, hp, hmem⟩⟩ := step_sampleMemoryFrame h
  · exact ⟨hplatform, .inl hmem⟩
  · exact ⟨hplatform, .inr ⟨a, b, rest, hp, fun x => hmem ▸ Memory.read_write hwf a.toNat x b⟩⟩

end Sys2Proof.Machine

/-! SUPPORT. Binary64 addition and multiplication against the rational numbers they stand for (R11): the one rounding function
rounds to nearest, ties to even, whatever it is given; O55 and O56 follow from the exact sum and the exact product. -/

namespace Sys2Proof.Machine

/-! ### The fields of an encoding -/

@[simp] theorem f64Sign_make (neg : Bool) (n : Nat) : f64Sign (f64Make neg n) = neg := by
  rw [f64Sign, f64Make, BitVec.getLsbD_append]
  simp

theorem f64Exponent_make (neg : Bool) {n : Nat} (hn : n < 2 ^ 63) : f64Exponent (f64Make neg n) = n / 2 ^ 52 := by
  rw [f64Exponent, f64Make, BitVec.extractLsb'_append_eq_of_add_le (by omega), BitVec.extractLsb'_toNat, BitVec.toNat_ofNat,
    Nat.shiftRight_eq_div_pow]
  omega

theorem f64Fraction_make (neg : Bool) (n : Nat) : f64Fraction (f64Make neg n) = n % 2 ^ 52 := by
  rw [f64Fraction, f64Make, BitVec.extractLsb'_append_eq_of_add_le (by omega), BitVec.extractLsb'_toNat, BitVec.toNat_ofNat,
    Nat.shiftRight_eq_div_pow]
  omega

theorem f64Finite_make_iff (neg : Bool) {n : Nat} (hn : n ≤ 2047 * 2 ^ 52) :
    f64Finite (f64Make neg n) = true ↔ n < 2047 * 2 ^ 52 := by
  rw [f64Finite, f64Exponent_make neg (by omega), bne_iff_ne]
  omega

theorem f64Significand_lt (b : Double) : f64Significand b < 2 ^ 53 := by
  have hf : f64Fraction b < 2 ^ 52 := BitVec.isLt _
  unfold f64Significand
  split <;> omega

/-! ### The value of an encoding -/

/-- A sign as a factor. -/
def signFactor (neg : Bool) : Rat := if neg then -1 else 1

theorem abs_signFactor_mul (neg : Bool) (x : Rat) : |signFactor neg * x| = |x| := by
  cases neg <;> simp [signFactor]

theorem f64ToRat_eq (b : Double) :
    f64ToRat b = signFactor (f64Sign b) * (f64Significand b * 2 ^ f64Scale b / 2 ^ 1074) := by
  rw [f64ToRat, signFactor, mul_assoc, mul_div_assoc]

/-- A rounded significand `r` at exponent `k` of the last place, also where it was carried to 2^53, is encoded by one sum. -/
theorem f64ToRat_make (neg : Bool) {k r : Nat} (hr : r ≤ 2 ^ 53) (hk : k = 0 ∨ 2 ^ 52 ≤ r)
    (hn : k * 2 ^ 52 + r < 2047 * 2 ^ 52) :
    f64ToRat (f64Make neg (k * 2 ^ 52 + r)) = signFactor neg * (r * 2 ^ k / 2 ^ 1074) := by
  have hvalue : f64Significand (f64Make neg (k * 2 ^ 52 + r)) * 2 ^ f64Scale (f64Make neg (k * 2 ^ 52 + r)) = r * 2 ^ k := by
    rw [f64Significand, f64Scale, f64Exponent_make neg (by omega), f64Fraction_make]
    obtain hr | hr | rfl : r < 2 ^ 52 ∨ (2 ^ 52 ≤ r ∧ r < 2 ^ 53) ∨ r = 2 ^ 53 := by omega
    · obtain rfl : k = 0 := by omega
      rw [if_pos (by omega), show (0 * 2 ^ 52 + r) / 2 ^ 52 - 1 = 0 by omega, show (0 * 2 ^ 52 + r) % 2 ^ 52 = r by omega]
    · rw [if_neg (by omega), show (k * 2 ^ 52 + r) / 2 ^ 52 - 1 = k by omega,
        show 2 ^ 52 + (k * 2 ^ 52 + r) % 2 ^ 52 = r by omega]
    · rw [if_neg (by omega), show (k * 2 ^ 52 + 2 ^ 53) / 2 ^ 52 - 1 = k + 1 by omega,
        show 2 ^ 52 + (k * 2 ^ 52 + 2 ^ 53) % 2 ^ 52 = 2 ^ 52 by omega, pow_succ 2 k]
      omega
  rw [f64ToRat_eq, f64Sign_make]
  congr 2
  exact_mod_cast hvalue

/-! ### Rounding to an integer -/

/-- `r` is `x` rounded to the nearest integer, a tie going to the even one. -/
structure IsNearestEven (r : Nat) (x : Rat) : Prop where
  near : |(r : Rat) - x| ≤ 1 / 2
  tie  : |(r : Rat) - x| = 1 / 2 → r % 2 = 0

theorem isNearestEven_down {q : Nat} {f : Rat} (hf0 : 0 ≤ f) (hf : f ≤ 1 / 2) (htie : f = 1 / 2 → q % 2 = 0) :
    IsNearestEven q (q + f) := by
  have hdist : |(q : Rat) - (q + f)| = f := by rw [sub_add_cancel_left, abs_neg, abs_of_nonneg hf0]
  exact ⟨hdist.le.trans hf, fun h => htie (hdist.symm.trans h)⟩

theorem isNearestEven_up {q : Nat} {f : Rat} (hf1 : f ≤ 1) (hf : 1 / 2 ≤ f) (htie : f = 1 / 2 → (q + 1) % 2 = 0) :
    IsNearestEven (q + 1) (q + f) := by
  have hdist : |((q + 1 : Nat) : Rat) - (q + f)| = 1 - f := by
    rw [Nat.cast_succ, add_sub_add_left_eq_sub, abs_of_nonneg (by linarith)]
  exact ⟨by linarith, fun h => htie (by linarith)⟩

/-- Either branch of `roundHalfEven` is told apart by the fraction `m % 2 ^ k / 2 ^ k` against 1 / 2. -/
theorem roundHalfEven_isNearestEven (m k : Nat) : IsNearestEven (roundHalfEven m k) ((m : Rat) / 2 ^ k) := by
  have hd : (0 : Rat) < 2 ^ k := by positivity
  have hx : (m : Rat) / 2 ^ k = (m / 2 ^ k : Nat) + ((m % 2 ^ k : Nat) : Rat) / 2 ^ k := by
    have hm : (2 : Rat) ^ k * (m / 2 ^ k : Nat) + (m % 2 ^ k : Nat) = m := by exact_mod_cast Nat.div_add_mod m (2 ^ k)
    field_simp
    linarith
  have hle : ((m % 2 ^ k : Nat) : Rat) / 2 ^ k ≤ 1 / 2 ↔ 2 * (m % 2 ^ k) ≤ 2 ^ k := by
    rw [div_le_div_iff₀ hd two_pos, one_mul, mul_comm]
    exact_mod_cast Iff.rfl
  have hge : 1 / 2 ≤ ((m % 2 ^ k : Nat) : Rat) / 2 ^ k ↔ 2 ^ k ≤ 2 * (m % 2 ^ k) := by
    rw [div_le_div_iff₀ two_pos hd, one_mul, mul_comm]
    exact_mod_cast Iff.rfl
  rw [hx, roundHalfEven]
  split
  · have hlt : (m % 2 ^ k : Nat) < (2 : Rat) ^ k := by exact_mod_cast Nat.mod_lt m (by positivity)
    exact isNearestEven_up ((div_le_one hd).mpr hlt.le) (hge.mpr (by omega)) fun h => by
      have hhalf := hle.mp h.le
      omega
  · exact isNearestEven_down (by positivity) (hle.mpr (by omega)) fun h => by
      have hhalf := hge.mp h.ge
      omega

/-- No integer is nearer to `x`; another as near makes it a tie, since two integers are at least 1 apart. -/
theorem IsNearestEven.nearest_int {r : Nat} {x : Rat} (h : IsNearestEven r x) (j : Int) :
    |(r : Rat) - x| ≤ |(j : Rat) - x| ∧ ((j : Rat) ≠ r → |(r : Rat) - x| = |(j : Rat) - x| → r % 2 = 0) := by
  by_cases hj : j = r
  · subst hj
    simp
  · have hone : (1 : Rat) ≤ |(j : Rat) - r| := by exact_mod_cast Int.one_le_abs (sub_ne_zero.mpr hj)
    have htri : |(j : Rat) - r| ≤ |(j : Rat) - x| + |(r : Rat) - x| := by
      rw [abs_sub_comm (r : Rat) x]
      exact abs_sub_le _ _ _
    have hnear := h.near
    exact ⟨by linarith, fun _ heq => h.tie (by linarith)⟩

/-- Nor is a number below 2 ^ 52 nearer to an `x` from 2 ^ 52 up: the integer 2 ^ 52 lies between them. -/
theorem IsNearestEven.nearest {r : Nat} {x y : Rat} (h : IsNearestEven r x)
    (hy : (∃ j : Int, y = j) ∨ (y < 2 ^ 52 ∧ 2 ^ 52 ≤ x)) :
    |(r : Rat) - x| ≤ |y - x| ∧ (y ≠ r → |(r : Rat) - x| = |y - x| → r % 2 = 0) := by
  obtain ⟨j, rfl⟩ | ⟨hy, hx⟩ := hy
  · exact h.nearest_int j
  · have hfar : |(r : Rat) - x| < |y - x| := by
      refine lt_of_le_of_lt (h.nearest_int (2 ^ 52)).1 ?_
      push_cast
      rw [abs_sub_comm, abs_sub_comm y, abs_of_nonneg (by linarith), abs_of_nonneg (by linarith)]
      linarith
    exact ⟨hfar.le, fun _ heq => absurd heq hfar.ne⟩

theorem IsNearestEven.le_of_le {r n : Nat} {x : Rat} (h : IsNearestEven r x) (hx : x ≤ n) : r ≤ n := by
  have hnear := (abs_le.mp h.near).2
  have hlt : (r : Rat) < (n + 1 : Nat) := by push_cast; linarith
  exact Nat.lt_succ_iff.mp (by exact_mod_cast hlt)

theorem IsNearestEven.ge_of_ge {r n : Nat} {x : Rat} (h : IsNearestEven r x) (hx : n ≤ x) : n ≤ r := by
  have hnear := (abs_le.mp h.near).1
  have hlt : (n : Rat) < (r + 1 : Nat) := by push_cast; linarith
  exact Nat.lt_succ_iff.mp (by exact_mod_cast hlt)

/-- Past an odd `n` from the half up: at the half itself the even neighbour is `n + 1`. -/
theorem IsNearestEven.succ_le_iff_of_odd {r n : Nat} {x : Rat} (h : IsNearestEven r x) (hn : n % 2 = 1) :
    n + 1 ≤ r ↔ n + 1 / 2 ≤ x := by
  constructor
  · intro hr
    have hnear := (abs_le.mp h.near).2
    have hr' : ((n + 1 : Nat) : Rat) ≤ r := by exact_mod_cast hr
    push_cast at hr'
    linarith
  · intro hx
    have hnr : n ≤ r := h.ge_of_ge (by linarith)
    rcases hnr.lt_or_eq with hlt | rfl
    · exact hlt
    · have hfar : x - n ≤ |(n : Rat) - x| := abs_sub_comm (n : Rat) x ▸ le_abs_self _
      have heven := h.tie (le_antisymm h.near (by linarith))
      omega

/-! ### Rounding to 53 significant bits -/

/-- The significand `f64RoundMagnitude` keeps: the integer `m * 2 ^ p` rounded in units of its last place. -/
def keptSignificand (m p : Nat) : Nat :=
  if p ≤ f64LastPlace m p then roundHalfEven m (f64LastPlace m p - p) else m * 2 ^ (p - f64LastPlace m p)

/-- The exact value in units of the last place kept. -/
def inLastPlaces (m p : Nat) : Rat := m * 2 ^ p / 2 ^ f64LastPlace m p

theorem f64RoundMagnitude_of_ne_zero {m p : Nat} (hm : m ≠ 0) :
    f64RoundMagnitude m p = min ((f64LastPlace m p - 1074) * 2 ^ 52 + keptSignificand m p) (2047 * 2 ^ 52) := by
  simp only [f64RoundMagnitude, hm, if_false, keptSignificand]

theorem keptSignificand_isNearestEven (m p : Nat) : IsNearestEven (keptSignificand m p) (inLastPlaces m p) := by
  unfold keptSignificand inLastPlaces
  split
  · next h =>
    have hx : (m : Rat) * 2 ^ p / 2 ^ f64LastPlace m p = m / 2 ^ (f64LastPlace m p - p) := by
      rw [pow_sub₀ _ two_ne_zero h]
      field_simp
    exact hx ▸ roundHalfEven_isNearestEven m _
  · next h =>
    have hx : (m : Rat) * 2 ^ p / 2 ^ f64LastPlace m p = (m * 2 ^ (p - f64LastPlace m p) : Nat) := by
      push_cast
      rw [pow_sub₀ _ two_ne_zero (not_le.mp h).le]
      field_simp
    rw [hx]
    constructor <;> norm_num

theorem inLastPlaces_lt (m p : Nat) : inLastPlaces m p < 2 ^ 53 := by
  have hlt : m * 2 ^ p < 2 ^ 53 * 2 ^ f64LastPlace m p := by
    calc m * 2 ^ p < 2 ^ (m.log2 + 1) * 2 ^ p := by gcongr; exact Nat.lt_log2_self
      _ = 2 ^ (m.log2 + 1 + p) := (pow_add ..).symm
      _ ≤ 2 ^ (53 + f64LastPlace m p) := Nat.pow_le_pow_right two_pos (by unfold f64LastPlace; omega)
      _ = 2 ^ 53 * 2 ^ f64LastPlace m p := pow_add ..
  rw [inLastPlaces, div_lt_iff₀ (by positivity)]
  exact_mod_cast hlt

/-- Above the least subnormal all 53 bits are significant. -/
theorem le_inLastPlaces {m p : Nat} (hm : m ≠ 0) (hq : f64LastPlace m p ≠ 1074) : 2 ^ 52 ≤ inLastPlaces m p := by
  have hle : 2 ^ 52 * 2 ^ f64LastPlace m p ≤ m * 2 ^ p := by
    calc 2 ^ 52 * 2 ^ f64LastPlace m p = 2 ^ (m.log2 + p) := by
          rw [← pow_add]; congr 1; unfold f64LastPlace at hq ⊢; omega
      _ = 2 ^ m.log2 * 2 ^ p := pow_add ..
      _ ≤ m * 2 ^ p := by gcongr; exact Nat.log2_self_le hm
  rw [inLastPlaces, le_div_iff₀ (by positivity)]
  exact_mod_cast hle

/-- The exact value that `f64RoundMagnitude m p` rounds, in units of its last place. -/
theorem magnitude_eq_inLastPlaces (m p : Nat) :
    (m : Rat) * 2 ^ p / 2 ^ 2148 = inLastPlaces m p * 2 ^ (f64LastPlace m p - 1074) / 2 ^ 1074 := by
  have hq : 1074 ≤ f64LastPlace m p := le_max_left ..
  rw [inLastPlaces, pow_sub₀ _ two_ne_zero hq, show 2148 = 1074 + 1074 from rfl, pow_add _ 1074 1074]
  generalize hu : (2 : Rat) ^ 1074 = u
  have hu0 : u ≠ 0 := by rw [← hu]; positivity
  field_simp

/-- What `f64RoundMagnitude` encodes: the value in units of some last place 2 ^ (k - 1074), at least 2 ^ 52 of them unless the
last place is the least subnormal, rounded to an integer. -/
theorem f64RoundMagnitude_spec (m p : Nat) :
    ∃ (k r : Nat) (x : Rat), f64RoundMagnitude m p = min (k * 2 ^ 52 + r) (2047 * 2 ^ 52) ∧
      (m : Rat) * 2 ^ p / 2 ^ 2148 = x * 2 ^ k / 2 ^ 1074 ∧
      IsNearestEven r x ∧ 0 ≤ x ∧ x < 2 ^ 53 ∧ (k = 0 ∨ 2 ^ 52 ≤ x) := by
  by_cases hm : m = 0
  · subst hm
    exact ⟨0, 0, 0, by simp [f64RoundMagnitude], by simp, by constructor <;> norm_num, le_rfl, by norm_num, .inl rfl⟩
  · refine ⟨_, _, _, f64RoundMagnitude_of_ne_zero hm, magnitude_eq_inLastPlaces m p, keptSignificand_isNearestEven m p,
      by unfold inLastPlaces; positivity, inLastPlaces_lt m p, ?_⟩
    by_cases hq : f64LastPlace m p = 1074
    · exact .inl (by omega)
    · exact .inr (le_inLastPlaces hm hq)

/-! ### The other doubles, in units of a last place -/

/-- Seen from either sign, a double is an integer of at most 53 bits at its scale. -/
theorem f64ToRat_eq_signed (c : Double) (neg : Bool) :
    ∃ z : Int, z < 2 ^ 53 ∧ f64ToRat c = signFactor neg * (z * 2 ^ f64Scale c / 2 ^ 1074) := by
  have hlt := f64Significand_lt c
  refine ⟨if f64Sign c = neg then f64Significand c else -f64Significand c, by split <;> omega, ?_⟩
  rw [f64ToRat_eq]
  cases f64Sign c <;> cases neg <;> simp [signFactor, neg_div]

/-- Measured in units of 2 ^ (k - 1074), a double is a whole number, or it is below 2 ^ 52 and `k` is not 0. -/
theorem f64ToRat_in_units (c : Double) (neg : Bool) (k : Nat) :
    ∃ y : Rat, f64ToRat c = signFactor neg * (y * 2 ^ k / 2 ^ 1074) ∧ ((∃ j : Int, y = j) ∨ (k ≠ 0 ∧ y < 2 ^ 52)) := by
  obtain ⟨z, hz, hc⟩ := f64ToRat_eq_signed c neg
  refine ⟨z * 2 ^ f64Scale c / 2 ^ k, by rw [hc, div_mul_cancel₀ _ (by positivity)], ?_⟩
  obtain hk | hk := le_or_gt k (f64Scale c)
  · refine .inl ⟨z * 2 ^ (f64Scale c - k), ?_⟩
    push_cast
    rw [pow_sub₀ _ two_ne_zero hk, mul_div_assoc, div_eq_mul_inv]
  · refine .inr ⟨by omega, ?_⟩
    have hz' : (z : Rat) < 2 ^ 53 := by exact_mod_cast hz
    rw [div_lt_iff₀ (by positivity)]
    calc (z : Rat) * 2 ^ f64Scale c < 2 ^ 53 * 2 ^ f64Scale c := by gcongr
      _ = 2 ^ 52 * 2 ^ (f64Scale c + 1) := by rw [pow_succ, pow_succ _ (f64Scale c)]; ring
      _ ≤ 2 ^ 52 * 2 ^ k := by gcongr <;> norm_num; omega

theorem abs_sub_in_units (neg : Bool) (k : Nat) (x y : Rat) :
    |signFactor neg * (x * 2 ^ k / 2 ^ 1074) - signFactor neg * (y * 2 ^ k / 2 ^ 1074)| = |x - y| * (2 ^ k / 2 ^ 1074) := by
  have hunit : (0 : Rat) < 2 ^ k / 2 ^ 1074 := by positivity
  rw [← mul_sub, abs_signFactor_mul, mul_div_assoc, mul_div_assoc, ← sub_mul, abs_mul, abs_of_pos hunit]

/-! ### Overflow -/

theorem overflow_threshold : (2 : Rat) ^ 1024 - 2 ^ 970 = (2 ^ 54 - 1) * 2 ^ 2044 / 2 ^ 1074 := by
  rw [eq_div_iff (by positivity), show 1024 = 54 + 970 from rfl, show 2044 = 970 + 1074 from rfl, pow_add _ 54 970,
    pow_add _ 970 1074, ← mul_assoc, sub_mul _ _ (2 ^ 970), one_mul]

/-- The sum of exponent and significand reaches infinity's encoding exactly when the value reaches 2^1024 - 2^970: only the largest
last place, `k` = 2045, has values on both sides, and there an odd significand 2^53 - 1 stands before the threshold. -/
theorem overflow_iff {k r : Nat} {x : Rat} (h : IsNearestEven r x) (hx : x < 2 ^ 53) (hk : k = 0 ∨ 2 ^ 52 ≤ x) :
    2047 * 2 ^ 52 ≤ k * 2 ^ 52 + r ↔ (2 : Rat) ^ 1024 - 2 ^ 970 ≤ x * 2 ^ k / 2 ^ 1074 := by
  rw [overflow_threshold, div_le_div_iff_of_pos_right (by positivity)]
  obtain hk' | rfl | hk' : k ≤ 2044 ∨ k = 2045 ∨ 2046 ≤ k := by omega
  · have hr : r ≤ 2 ^ 53 := h.le_of_le (by exact_mod_cast hx.le)
    refine iff_of_false (by omega) (not_le.mpr ?_)
    calc x * 2 ^ k ≤ 2 ^ 53 * 2 ^ 2044 := by gcongr; norm_num
      _ < (2 ^ 54 - 1) * 2 ^ 2044 := by gcongr; norm_num
  · have hodd := h.succ_le_iff_of_odd (n := 2 ^ 53 - 1) (by norm_num)
    have hiff : 2047 * 2 ^ 52 ≤ 2045 * 2 ^ 52 + r ↔ 2 ^ 53 - 1 + 1 ≤ r := by omega
    rw [pow_succ' (2 : Rat) 2044, ← mul_assoc, mul_le_mul_iff_left₀ (by positivity), hiff, hodd]
    push_cast
    constructor <;> intro h' <;> linarith
  · have hx52 : 2 ^ 52 ≤ x := hk.resolve_left (by omega)
    have hr : 2 ^ 52 ≤ r := h.ge_of_ge (by exact_mod_cast hx52)
    refine iff_of_true (by omega) ?_
    calc ((2 : Rat) ^ 54 - 1) * 2 ^ 2044 ≤ 2 ^ 52 * 2 ^ 2 * 2 ^ 2044 := by gcongr; norm_num
      _ = 2 ^ 52 * 2 ^ 2046 := by rw [mul_assoc, ← pow_add]
      _ ≤ x * 2 ^ k := by gcongr; norm_num

/-! ### Correct rounding -/

/-- `d` is the value `v` rounded to binary64: it overflows from 2^1024 - 2^970 up; otherwise no double is nearer to `v`, and of two
as near it is the one with an even fraction (R11). -/
def IsRoundingOf (d : Double) (v : Rat) : Prop :=
  (f64Finite d = false ↔ (2 : Rat) ^ 1024 - 2 ^ 970 ≤ |v|) ∧
  (f64Finite d = true → ∀ c : Double, f64Finite c = true →
    |f64ToRat d - v| ≤ |f64ToRat c - v| ∧
    (f64ToRat c ≠ f64ToRat d → |f64ToRat d - v| = |f64ToRat c - v| → f64Fraction d % 2 = 0))

/-- The one rounding function rounds correctly, whatever the sign. -/
theorem f64Make_roundMagnitude_isRoundingOf (neg : Bool) (m p : Nat) :
    IsRoundingOf (f64Make neg (f64RoundMagnitude m p)) (signFactor neg * (m * 2 ^ p / 2 ^ 2148)) := by
  obtain ⟨k, r, x, hbits, hvalue, hr, hx0, hx, hk⟩ := f64RoundMagnitude_spec m p
  have hfin : f64Finite (f64Make neg (f64RoundMagnitude m p)) = true ↔ k * 2 ^ 52 + r < 2047 * 2 ^ 52 := by
    rw [hbits, f64Finite_make_iff neg (min_le_right ..)]
    omega
  rw [hvalue]
  constructor
  · rw [abs_signFactor_mul, abs_of_nonneg (by positivity), ← overflow_iff hr hx hk, ← Bool.not_eq_true, hfin, not_lt]
  · intro hd c _
    have hlt := hfin.mp hd
    rw [hbits, min_eq_left hlt.le, f64ToRat_make neg (hr.le_of_le (by exact_mod_cast hx.le))
      (hk.imp_right fun h => hr.ge_of_ge (by exact_mod_cast h)) hlt, f64Fraction_make]
    obtain ⟨y, hc, hy⟩ := f64ToRat_in_units c neg k
    obtain ⟨hle, htie⟩ := hr.nearest (y := y) (hy.imp_right fun ⟨hk0, hy⟩ => ⟨hy, hk.resolve_left hk0⟩)
    rw [hc, abs_sub_in_units, abs_sub_in_units]
    refine ⟨by gcongr, fun hne heq => ?_⟩
    have hunit : (0 : Rat) < 2 ^ k / 2 ^ 1074 := by positivity
    have heven := htie (fun h => hne (by rw [h])) (mul_right_cancel₀ hunit.ne' heq)
    omega

/-! ### Multiplication -/

theorem f64Mul_of_finite {a b : Double} (ha : f64Finite a = true) (hb : f64Finite b = true) :
    f64Mul a b = f64Make (f64Sign a != f64Sign b)
      (f64RoundMagnitude (f64Significand a * f64Significand b) (f64Scale a + f64Scale b)) := by
  simp [f64Mul, ha, hb]

theorem signFactor_bne (s t : Bool) : signFactor (s != t) = signFactor s * signFactor t := by
  cases s <;> cases t <;> norm_num [signFactor]

theorem f64ToRat_mul_eq (a b : Double) :
    f64ToRat a * f64ToRat b = signFactor (f64Sign a != f64Sign b) *
      ((f64Significand a * f64Significand b : Nat) * 2 ^ (f64Scale a + f64Scale b) / 2 ^ 2148) := by
  rw [f64ToRat_eq, f64ToRat_eq, signFactor_bne, mul_mul_mul_comm, div_mul_div_comm, mul_mul_mul_comm _ _ (f64Significand b : Rat),
    ← pow_add, ← pow_add, Nat.cast_mul]

/-- Settles O56: the exact product goes into the one rounding function, with the product of the signs. -/
theorem multiplicationIsCorrectlyRounded : Obligations.MultiplicationIsCorrectlyRounded := by
  intro a b ha hb
  rw [f64Mul_of_finite ha hb, f64ToRat_mul_eq, f64Sign_make]
  obtain ⟨hoverflow, hnearest⟩ := f64Make_roundMagnitude_isRoundingOf (f64Sign a != f64Sign b)
    (f64Significand a * f64Significand b) (f64Scale a + f64Scale b)
  exact ⟨hoverflow, hnearest, rfl⟩

/-! ### Addition -/

/-- The exact sum of two finite values as `f64AddFinite` forms it, an integer at the smaller scale. -/
def exactSum (a b : Double) : Int :=
  f64SignedAt a (min (f64Scale a) (f64Scale b)) + f64SignedAt b (min (f64Scale a) (f64Scale b))

theorem f64Add_of_finite {a b : Double} (ha : f64Finite a = true) (hb : f64Finite b = true) :
    f64Add a b = f64Make (if exactSum a b = 0 then f64Sign a && f64Sign b else exactSum a b < 0)
      (f64RoundMagnitude (exactSum a b).natAbs (min (f64Scale a) (f64Scale b) + 1074)) := by
  have hadd : f64Add a b = f64AddFinite a b := by simp [f64Add, ha, hb]
  rw [hadd, f64AddFinite]
  change (if exactSum a b = 0 then _ else _) = _
  split
  · next h => rw [h]; simp [f64RoundMagnitude]
  · rfl

theorem f64ToRat_eq_signedAt (b : Double) {q : Nat} (hq : q ≤ f64Scale b) :
    f64ToRat b = f64SignedAt b q * 2 ^ q / 2 ^ 1074 := by
  have hpow : (2 : Rat) ^ f64Scale b = 2 ^ (f64Scale b - q) * 2 ^ q := by rw [← pow_add, Nat.sub_add_cancel hq]
  rw [f64ToRat_eq, f64SignedAt, hpow, signFactor]
  push_cast
  rw [← mul_assoc, ← mul_div_assoc, mul_assoc, mul_assoc, mul_assoc]

theorem f64ToRat_add_eq (a b : Double) :
    f64ToRat a + f64ToRat b = exactSum a b * 2 ^ min (f64Scale a) (f64Scale b) / 2 ^ 1074 := by
  rw [f64ToRat_eq_signedAt a (min_le_left ..), f64ToRat_eq_signedAt b (min_le_right ..), ← add_div, ← add_mul,
    exactSum, Int.cast_add]

/-- An exact zero may be given either sign. -/
theorem signFactor_mul_natAbs (z : Int) (neg : Bool) :
    signFactor (if z = 0 then neg else z < 0) * (z.natAbs : Rat) = z := by
  obtain hz | rfl | hz := lt_trichotomy z 0
  · have habs : (z.natAbs : Rat) = -z := by rw [Nat.cast_natAbs, abs_of_neg hz, Int.cast_neg]
    simp [signFactor, hz, hz.ne, habs]
  · simp
  · have habs : (z.natAbs : Rat) = z := by rw [Nat.cast_natAbs, abs_of_pos hz]
    simp [signFactor, hz.ne', hz.not_gt, habs]

theorem f64Add_isRoundingOf {a b : Double} (ha : f64Finite a = true) (hb : f64Finite b = true) :
    IsRoundingOf (f64Add a b) (f64ToRat a + f64ToRat b) := by
  have hsum : f64ToRat a + f64ToRat b =
      signFactor (if exactSum a b = 0 then f64Sign a && f64Sign b else exactSum a b < 0) *
        ((exactSum a b).natAbs * 2 ^ (min (f64Scale a) (f64Scale b) + 1074) / 2 ^ 2148) := by
    rw [← mul_div_assoc, ← mul_assoc, signFactor_mul_natAbs, pow_add, show 2148 = 1074 + 1074 from rfl, pow_add _ 1074 1074,
      ← mul_assoc, mul_div_mul_right _ _ (by positivity), f64ToRat_add_eq]
  rw [f64Add_of_finite ha hb, hsum]
  exact f64Make_roundMagnitude_isRoundingOf ..

/-! ### The sign of an exact zero -/

theorem mul_two_pow_div_two_pow_eq_zero_iff {x : Rat} {m n : Nat} : x * 2 ^ m / 2 ^ n = 0 ↔ x = 0 := by
  simp

theorem exactSum_eq_zero {a b : Double} (h : f64ToRat a + f64ToRat b = 0) : exactSum a b = 0 := by
  rw [f64ToRat_add_eq, mul_two_pow_div_two_pow_eq_zero_iff] at h
  exact_mod_cast h

theorem f64ToRat_nonpos_of_sign {a : Double} (h : f64Sign a = true) : f64ToRat a ≤ 0 := by
  rw [f64ToRat_eq, h, signFactor, if_pos rfl, neg_one_mul, neg_nonpos]
  positivity

theorem f64Significand_eq_zero {a : Double} (h : f64ToRat a = 0) : f64Significand a = 0 := by
  rw [f64ToRat_eq, ← abs_eq_zero, abs_signFactor_mul, abs_eq_zero, mul_two_pow_div_two_pow_eq_zero_iff] at h
  exact_mod_cast h

/-- Of the two zeros the one of negative sign is -0.0. -/
theorem eq_f64NegZero {a : Double} (hsign : f64Sign a = true) (hval : f64ToRat a = 0) : a = f64NegZero := by
  have hsig := f64Significand_eq_zero hval
  rw [f64Significand] at hsig
  split at hsig
  · next hexp =>
    rw [f64Exponent, BitVec.extractLsb'_toNat, Nat.shiftRight_eq_div_pow] at hexp
    rw [f64Fraction, BitVec.extractLsb'_toNat, Nat.shiftRight_eq_div_pow] at hsig
    rw [f64Sign, BitVec.getLsbD, Nat.testBit_eq_decide_div_mod_eq, decide_eq_true_eq] at hsign
    refine BitVec.eq_of_toNat_eq ?_
    change a.toNat = 2 ^ 63
    have hlt := a.isLt
    omega
  · omega

/-- Settles O55: the exact sum goes into the one rounding function; the sum of two values of negative sign is zero only when both
are -0.0. -/
theorem additionIsCorrectlyRounded : Obligations.AdditionIsCorrectlyRounded := by
  intro a b ha hb
  obtain ⟨hoverflow, hnearest⟩ := f64Add_isRoundingOf ha hb
  refine ⟨hoverflow, hnearest, fun hneg hzero => ?_⟩
  have hsign : (f64Sign a && f64Sign b) = true := by
    have h := congrArg f64Sign hneg
    rw [f64Add_of_finite ha hb, f64Sign_make, if_pos (exactSum_eq_zero hzero)] at h
    exact h.trans (by decide)
  obtain ⟨hsa, hsb⟩ := (Bool.and_eq_true _ _).mp hsign
  have hna := f64ToRat_nonpos_of_sign hsa
  have hnb := f64ToRat_nonpos_of_sign hsb
  exact ⟨eq_f64NegZero hsa (by linarith), eq_f64NegZero hsb (by linarith)⟩

end Sys2Proof.Machine

/-! SUPPORT. The invariant of R49: each operation keeps it, so every agent's step does (O47), and it holds at reset (O46).
Also O31, the frame of the commands, from what the Engine can do to a state. -/

namespace Sys2Proof.Machine

/-! ### What a command leaves alone -/

/-- Settles O31: whatever the Engine does, commits and bookkeeping reach none of these fields. -/
theorem commandsLeaveTheRestAlone : Obligations.CommandsLeaveTheRestAlone := by
  intro i s t h
  obtain ⟨u, hu, hr⟩ := exec_engineResult i s
  cases hu.symm.trans h
  cases hr with
  | idle => simp
  | success ch _ hc =>
    obtain ⟨bg, cg, desc, zzgen, rfl⟩ := hc
    simp [State.withBuffers]
  | error => simp

/-! ### The commits keep the invariant -/

theorem Inv.blockGrid {s : State} (h : Inv s) {g : BlockGrid} (hg : GridInRange g) : Inv (commitBlockGrid g s) :=
  { h with bg := by rintro _ ⟨⟩; exact hg }

theorem Inv.coeffGrid {s : State} (h : Inv s) {v : CoeffGrid} (hv : ∃ g, GridInRange g ∧ v = dctRef g) :
    Inv (commitCoeffGrid v s) :=
  { h with cg := by rintro _ ⟨⟩; exact hv }

theorem Inv.descriptor {s : State} (h : Inv s) (c : Fin 3) {d : Descriptor}
    (hd : ∃ g, GridInRange g ∧ d = reorder (dctRef g)) : Inv (commitDescriptor c d s) :=
  { h with
    desc := by
      intro ch d' hd'
      rw [commitDescriptor_desc, Vector.getElem_set] at hd'
      split at hd'
      · cases hd'
        exact hd
      · exact h.desc ch d' hd' }

theorem Inv.zigzag {s : State} (h : Inv s) {z : ZzTable} (hz : sizeOk z.m = true ∧ z.entries = zigzagTable z.m.toNat) :
    Inv (commitZigzag z s) :=
  { h with zzgen := by rintro _ ⟨⟩; exact hz }

/-! ### Completions, resets and sample writes keep it -/

theorem succeed_keeps_inv {s : State} (h : Inv s) (w : Word) (ch : BitVec 2) : Inv (succeed w ch s) :=
  { h with code := Nat.zero_le 7 }

theorem errorCode_bits_le (c : ErrorCode) : (ErrorCode.bits c).toNat ≤ 7 := by cases c <;> decide

theorem takeError_keeps_inv {s : State} (h : Inv s) (w : Word) (e : CmdError) : Inv (takeError w e s) :=
  { h with code := errorCode_bits_le e.code }

theorem writeSample_keeps_inv {s : State} (h : Inv s) (a : BitVec 32) (b : Byte) : Inv (writeSample a.toNat b s) :=
  { h with mem := Memory.wf_write h.mem a.isLt }

/-- After a reset no buffer is valid, so only memory and the platform have to be legal. -/
theorem resetDevice_inv {s : State} (hmem : Memory.wf s.mem) (hplatform : Platform.wf s.platform) : Inv (resetDevice s) where
  mem := hmem
  platform := hplatform
  bg := by simp
  cg := by simp
  desc := by simp
  zzgen := by simp
  code := Nat.zero_le 7

/-- Settles O46: a reset leaves `State.reset` as it is, and the memory and the platform it has are legal. -/
theorem invariantHoldsAtReset : Obligations.InvariantHoldsAtReset :=
  resetDevice_inv (s := State.reset) Memory.wf_nil (by decide)

/-! ### The Engine keeps it -/

/-- The truncated mean of bytes is a byte (R128); a cell without samples has mean 0. -/
theorem cellMean_le (s : State) (l : Latch) (c : Fin 3) (p : PlaneRegs) (i j : Nat) : cellMean s l c p i j ≤ 255 := by
  refine Nat.div_le_of_le_mul ?_
  have hbytes : ∀ n ∈ (cellAddrs p i j).map fun a => (sampleByte s l c a).toNat, n ≤ 255 := by
    simp only [List.mem_map, forall_exists_index, and_imp]
    rintro _ a - rfl
    exact Nat.le_of_lt_succ (sampleByte s l c a).isLt
  simpa using List.sum_le_card_nsmul _ _ hbytes

theorem planeMeans_inRange (s : State) (l : Latch) (c : Fin 3) (p : PlaneRegs) : GridInRange (planeMeans s l c p) := by
  intro n
  rw [planeMeans, Vector.getElem_ofFn, BitVec.toNat_ofNat]
  exact (Nat.mod_le ..).trans (cellMean_le ..)

theorem reducePlane_inRange {s : State} {l : Latch} {c : Fin 3} {g : BlockGrid} (h : reducePlane s l c = .ok g) :
    GridInRange g := by
  obtain ⟨e, -, h'⟩ | ⟨-, -, h'⟩ | ⟨-, -, h'⟩ := reducePlane_cases s l c <;> rw [h'] at h
  · cases h
  · cases h
  · exact Except.ok.inj h ▸ planeMeans_inRange s l c _

theorem sizeOperand_eq_ok {m : BitVec 4} {k : Nat} (h : sizeOperand m = .ok k) : sizeOk m = true ∧ k = m.toNat := by
  cases hm : sizeOk m
  · simp [sizeOperand_of_not_ok hm] at h
  · rw [sizeOperand_of_ok hm] at h
    exact ⟨rfl, (Except.ok.inj h).symm⟩

theorem complete_keeps_inv {s t : State} {ch : BitVec 2} {body : Latch → Except CmdError State} (h : Inv s)
    (ht : complete ch body s = .next t) (hbody : ∀ l u, body l = .ok u → Inv u) : Inv t := by
  obtain ⟨-, ho⟩ | ⟨l, u, -, hb, ho⟩ | ⟨l, e, -, -, ho⟩ := complete_cases ht <;> cases ho
  · exact h
  · exact succeed_keeps_inv (hbody l u hb) ..
  · exact takeError_keeps_inv h ..

/-- Each command commits a grid of means, the transform of one in either order, or the table of its own size. -/
theorem exec_keeps_inv {i : Instr} {s t : State} (h : Inv s) (ht : exec i s = .next t) : Inv t := by
  cases i with
  | nop =>
    refine complete_keeps_inv (ch := 0#2) (body := fun _ => .ok s) h ht fun l u hu => ?_
    cases hu
    exact h
  | reduce ch =>
    refine complete_keeps_inv h ht fun l u hu => ?_
    simp only [bind_eq_ok, pure_eq_ok] at hu
    obtain ⟨c, -, g, hg, rfl⟩ := hu
    exact h.blockGrid (reducePlane_inRange hg)
  | dct =>
    refine complete_keeps_inv h ht fun l u hu => ?_
    split at hu <;> cases hu
    next g hg => exact h.coeffGrid ⟨g, h.bg g hg, rfl⟩
  | reorder ch =>
    refine complete_keeps_inv h ht fun l u hu => ?_
    obtain ⟨c, -, hu⟩ := bind_eq_ok.mp hu
    split at hu <;> cases hu
    next v hv =>
      obtain ⟨g, hg, rfl⟩ := h.cg v hv
      exact h.descriptor c ⟨g, hg, rfl⟩
  | runCh ch =>
    refine complete_keeps_inv h ht fun l u hu => ?_
    simp only [bind_eq_ok, pure_eq_ok] at hu
    obtain ⟨c, -, g, hg, rfl⟩ := hu
    replace hg := reducePlane_inRange hg
    exact ((h.blockGrid hg).coeffGrid ⟨g, hg, rfl⟩).descriptor c ⟨g, hg, rfl⟩
  | runFrame =>
    refine complete_keeps_inv h ht fun l u hu => ?_
    simp only [bind_eq_ok, pure_eq_ok] at hu
    obtain ⟨_, -, _, -, _, -, g0, hg0, g1, hg1, g2, hg2, rfl⟩ := hu
    replace hg2 := reducePlane_inRange hg2
    exact ((((h.blockGrid hg2).coeffGrid ⟨g2, hg2, rfl⟩).descriptor 0 ⟨g0, reducePlane_inRange hg0, rfl⟩).descriptor
      1 ⟨g1, reducePlane_inRange hg1, rfl⟩).descriptor 2 ⟨g2, hg2, rfl⟩
  | zzgen m =>
    refine complete_keeps_inv h ht fun l u hu => ?_
    simp only [bind_eq_ok, pure_eq_ok] at hu
    obtain ⟨k, hk, rfl⟩ := hu
    obtain ⟨hm, rfl⟩ := sizeOperand_eq_ok hk
    exact h.zigzag ⟨hm, rfl⟩

theorem engineStep_keeps_inv {s t : State} (h : Inv s) (ht : engineStep s = .next t) : Inv t := by
  simp only [engineStep] at ht
  split at ht
  · cases ht
    exact h
  · split at ht
    · exact exec_keeps_inv h ht
    · cases ht
      exact takeError_keeps_inv h ..

/-! ### The Host keeps it -/

/-- Everything a register write can do: set the live configuration, reset, issue a command, clear interrupt bits, or nothing. -/
theorem regWrite_cases (s : State) (off : BitVec 12) (v : Word) :
    (∃ en present planes, regWrite s off v = { s with irqEn := en, chPresent := present, planes := planes }) ∨
    regWrite s off v = resetDevice s ∨ regWrite s off v = issue v s ∨ regWrite s off v = clearIrq v s ∨
    regWrite s off v = s := by
  simp only [regWrite]
  split
  · exact .inl ⟨_, _, _, rfl⟩
  · split
    · split <;> simp
    · simp
    · simp
    · exact .inl ⟨_, _, _, rfl⟩
    · exact .inl ⟨_, _, _, rfl⟩
    · simp

theorem issue_keeps_inv {s : State} (h : Inv s) (w : Word) : Inv (issue w s) := by
  unfold issue
  split <;> exact { h with }

theorem regWrite_keeps_inv {s : State} (h : Inv s) (off : BitVec 12) (v : Word) : Inv (regWrite s off v) := by
  obtain ⟨en, present, planes, hw⟩ | hw | hw | hw | hw := regWrite_cases s off v <;> rw [hw]
  · exact { h with }
  · exact resetDevice_inv h.mem h.platform
  · exact issue_keeps_inv h v
  · exact { h with }
  · exact h

theorem joinReads_keeps_inv {s : State} (h : Inv s) (off : BitVec 12) : Inv (joinReads off s) := by
  unfold joinReads
  split
  · exact { h with }
  · exact h

theorem hostAccess_keeps_inv {op : HostOp} {s t : State} (h : Inv s) (ht : hostAccess op s = .next t) : Inv t := by
  cases op with
  | regRead off bits =>
    obtain rfl := eq_of_registerAccess_eq_next ht
    exact { h with }
  | regWrite off bits v =>
    obtain rfl := eq_of_registerAccess_eq_next ht
    exact regWrite_keeps_inv h off v
  | poll off mask val =>
    obtain rfl := eq_of_registerAccess_eq_next ht
    split
    · exact h
    · exact { h with }
  | join off =>
    cases ht
    exact joinReads_keeps_inv h off
  | readBeyond off => cases ht
  | mem8 a b =>
    cases ht
    exact writeSample_keeps_inv h a b

theorem hostStep_keeps_inv {s t : State} (h : Inv s) (ht : hostStep s = .next t) : Inv t := by
  simp only [hostStep] at ht
  split at ht
  · cases ht
    exact h
  · next op rest _ =>
    have hrest : Inv { s with hostProgram := rest } := { h with }
    exact hostAccess_keeps_inv hrest ht

/-- Settles O47: whoever moves keeps the invariant, which does not speak of the schedule. -/
theorem stepKeepsTheInvariant : Obligations.StepKeepsTheInvariant := by
  intro s t h ht
  have hturn (rest : List Turn) : Inv { s with schedule := rest } := { h with }
  obtain ⟨rest, -, hs⟩ | ⟨rest, -, hs⟩ | ⟨rest, -, hs⟩ | ⟨-, hs | hs⟩ := step_cases s <;> rw [hs] at ht
  · exact hostStep_keeps_inv (hturn rest) ht
  · exact engineStep_keeps_inv (hturn rest) ht
  · cases ht
    exact resetDevice_inv h.mem h.platform
  · exact engineStep_keeps_inv h ht
  · exact hostStep_keeps_inv h ht

end Sys2Proof.Machine

/-! SUPPORT. The register space (R23): what each range of offsets reads and which writes reach a register, said once; then O33
to O38 and O41. -/

namespace Sys2Proof.Machine

/-! ### The map of R23, range by range -/

theorem regRead_control {off : BitVec 12} (s : State) (h : off.toNat < 0x40) : regRead s off = readControl s off.toNat := by
  simp only [regRead, if_pos h]

theorem readControl_reserved {o : Nat} (s : State) (h : 0x24 ≤ o) : readControl s o = 0#32 := by
  unfold readControl
  split
  case h_8 => rfl
  all_goals omega

theorem isPlaneOffset_eq_false {o : Nat} (h : o < 0x40 ∨ 0x70 ≤ o) : isPlaneOffset o = false := by
  rw [← Bool.not_eq_true, isPlaneOffset, Bool.and_eq_true, decide_eq_true_eq, decide_eq_true_eq]
  omega

/-- Above the PLANE registers come the windows of R23 in the order of their offsets, reserved offsets before and after them. -/
theorem regRead_above_planes {off : BitVec 12} (s : State) (h : 0x70 ≤ off.toNat) :
    regRead s off =
      if off.toNat < 0x200 then 0#32
      else if off.toNat < 0x400 then windowWord s.bg (entryIndex off.toNat) (isHighWord off.toNat)
      else if off.toNat < 0x600 then windowWord s.cg (entryIndex off.toNat) (isHighWord off.toNat)
      else if off.toNat < 0x700 then (perm8 (wordIndex off.toNat)).setWidth 32
      else if off.toNat < 0x800 then zzgenWord s (wordIndex off.toNat)
      else if off.toNat < 0xA00 then windowWord s.desc[0] (entryIndex off.toNat) (isHighWord off.toNat)
      else if off.toNat < 0xC00 then windowWord s.desc[1] (entryIndex off.toNat) (isHighWord off.toNat)
      else if off.toNat < 0xE00 then windowWord s.desc[2] (entryIndex off.toNat) (isHighWord off.toNat)
      else 0#32 := by
  simp only [regRead, isPlaneOffset_eq_false (.inr h)]
  rw [if_neg (by omega), if_neg Bool.false_ne_true]

theorem regRead_reserved {off : BitVec 12} (s : State)
    (h : 0x24 ≤ off.toNat ∧ off.toNat ≤ 0x3F ∨ 0x70 ≤ off.toNat ∧ off.toNat ≤ 0x1FF ∨ 0xE00 ≤ off.toNat) :
    regRead s off = 0#32 := by
  obtain h | h | h := h
  · rw [regRead_control s (by omega), readControl_reserved s h.1]
  · rw [regRead_above_planes s h.1, if_pos (by omega)]
  · rw [regRead_above_planes s (by omega)]
    iterate 8 rw [if_neg (by omega)]

/-- The 64-bit windows (R36, R37, R40): buffer `b` is read through the 0x200 bytes from `base` on. -/
def IsWindow (s : State) (b : Option (Vector (BitVec 64) 64)) (base : Nat) : Prop :=
  (b = s.bg ∧ base = 0x200) ∨ (b = s.cg ∧ base = 0x400) ∨ ∃ c : Fin 3, b = s.desc[c.val] ∧ base = 0x800 + 0x200 * c.val

theorem regRead_window {s : State} {b : Option (Vector (BitVec 64) 64)} {base : Nat} {off : BitVec 12} (hb : IsWindow s b base)
    (hlo : base ≤ off.toNat) (hhi : off.toNat < base + 0x200) :
    regRead s off = windowWord b (entryIndex off.toNat) (isHighWord off.toNat) := by
  obtain ⟨rfl, rfl⟩ | ⟨rfl, rfl⟩ | ⟨c, rfl, rfl⟩ := hb
  · rw [regRead_above_planes s (by omega), if_neg (by omega), if_pos (by omega)]
  · rw [regRead_above_planes s (by omega), if_neg (by omega), if_neg (by omega), if_pos (by omega)]
  · rw [regRead_above_planes s (by omega)]
    iterate 5 rw [if_neg (by omega)]
    fin_cases c <;> dsimp only at hlo hhi ⊢
    · rw [if_pos (by omega)]
    · rw [if_neg (by omega), if_pos (by omega)]
    · rw [if_neg (by omega), if_neg (by omega), if_pos (by omega)]

theorem regRead_zzRom {off : BitVec 12} (s : State) (hlo : 0x600 ≤ off.toNat) (hhi : off.toNat < 0x700) :
    regRead s off = (perm8 (wordIndex off.toNat)).setWidth 32 := by
  rw [regRead_above_planes s (by omega), if_neg (by omega), if_neg (by omega), if_neg (by omega), if_pos (by omega)]

theorem regRead_zzgen {off : BitVec 12} (s : State) (hlo : 0x700 ≤ off.toNat) (hhi : off.toNat < 0x800) :
    regRead s off = zzgenWord s (wordIndex off.toNat) := by
  rw [regRead_above_planes s (by omega)]
  iterate 4 rw [if_neg (by omega)]
  rw [if_pos (by omega)]

/-- Outside the PLANE registers a write reaches only CTRL, CMD, IRQ_STATUS, IRQ_ENABLE and CH_PRESENT (R41, R60). -/
theorem regWrite_ignored {off : BitVec 12} (s : State) (v : Word) (hplane : off.toNat < 0x40 ∨ 0x70 ≤ off.toNat)
    (hcontrol : off.toNat ∉ [0x008, 0x00C, 0x018, 0x01C, 0x020]) : regWrite s off v = s := by
  simp only [regWrite, isPlaneOffset_eq_false hplane, if_neg Bool.false_ne_true]
  split
  all_goals simp_all

/-- Settles O36: the offsets named are outside everything the map gives a register. -/
theorem constantReservedAndReadOnlyOffsets : Obligations.ConstantReservedAndReadOnlyOffsets := by
  intro s v
  refine ⟨rfl, rfl, rfl, rfl, fun hv => ?_, fun off hoff => ?_, fun off hoff => ?_⟩
  · change (if v.getLsbD 0 = true then resetDevice s else s) = s
    rw [hv, if_neg Bool.false_ne_true]
  · have hread := regRead_reserved s hoff
    have hwrite : regWrite s off v = s := regWrite_ignored s v (by omega) (by simp; omega)
    refine ⟨hread, hwrite, fun haligned => ⟨?_, ?_⟩⟩
    · rw [hostAccess, registerAccess_of_legal haligned, hread]
      rfl
    · rw [hostAccess, registerAccess_of_legal haligned, hwrite]
  · exact regWrite_ignored s v (by omega) (by simp; omega)

/-! ### The windows, entry by entry -/

theorem halfWord_append (x : BitVec 64) : halfWord x true ++ halfWord x false = x :=
  BitVec.extractLsb'_append_extractLsb' (w := 32) (len := 32)

/-- The two words of entry `n` of a 64-bit window (R63). -/
theorem regRead_entry {s : State} {b : Option (Vector (BitVec 64) 64)} {base : Nat} (hb : IsWindow s b base) (n : Fin 64) :
    regRead s (BitVec.ofNat 12 (base + 8 * n.val)) = windowWord b n false ∧
    regRead s (BitVec.ofNat 12 (base + 8 * n.val + 4)) = windowWord b n true := by
  have hbase : base % 0x200 = 0 ∧ base + 0x200 ≤ 0x1000 := by
    obtain ⟨-, rfl⟩ | ⟨-, rfl⟩ | ⟨c, -, rfl⟩ := hb <;> omega
  have hlow : (BitVec.ofNat 12 (base + 8 * n.val)).toNat = base + 8 * n.val := by
    rw [BitVec.toNat_ofNat]; omega
  have hhigh : (BitVec.ofNat 12 (base + 8 * n.val + 4)).toNat = base + 8 * n.val + 4 := by
    rw [BitVec.toNat_ofNat]; omega
  rw [regRead_window hb (by omega) (by omega), regRead_window hb (by omega) (by omega), hlow, hhigh]
  constructor <;> congr 1
  · exact Fin.ext (show (base + 8 * n.val) / 8 % 64 = n.val by omega)
  · simp only [isHighWord, beq_eq_false_iff_ne]
    omega
  · exact Fin.ext (show (base + 8 * n.val + 4) / 8 % 64 = n.val by omega)
  · simp only [isHighWord, beq_iff_eq]
    omega

/-- Settles O37: the five windows are read alike, and the two halves of an entry make it up. -/
theorem bufferWindowsReadTheirEntries : Obligations.BufferWindowsReadTheirEntries := by
  intro s n b base hb
  obtain ⟨hlow, hhigh⟩ := regRead_entry hb n
  rw [hlow, hhigh]
  constructor
  · rintro rfl
    exact ⟨rfl, rfl⟩
  · rintro g rfl
    exact halfWord_append _

theorem wordIndex_add {base : Nat} (h : base % 0x100 = 0) (n : Fin 64) : wordIndex (base + 4 * n.val) = n :=
  Fin.ext (show (base + 4 * n.val) / 4 % 64 = n.val by omega)

theorem perm8_toNat (k : Fin 64) : (perm8 k).toNat = perm8List.getD k.val 64 := by revert k; decide

theorem regRead_zzRom_word (s : State) (n : Fin 64) :
    (regRead s (BitVec.ofNat 12 (0x600 + 4 * n.val))).toNat = perm8List.getD n.val 64 := by
  have hoff : (BitVec.ofNat 12 (0x600 + 4 * n.val)).toNat = 0x600 + 4 * n.val := by
    rw [BitVec.toNat_ofNat]; omega
  rw [regRead_zzRom s (by omega) (by omega), hoff, wordIndex_add (by decide), BitVec.toNat_setWidth_of_le (by decide),
    perm8_toNat]

theorem regRead_zzgen_word (s : State) (n : Fin 64) : regRead s (BitVec.ofNat 12 (0x700 + 4 * n.val)) = zzgenWord s n := by
  have hoff : (BitVec.ofNat 12 (0x700 + 4 * n.val)).toNat = 0x700 + 4 * n.val := by
    rw [BitVec.toNat_ofNat]; omega
  rw [regRead_zzgen s (by omega) (by omega), hoff, wordIndex_add (by decide)]

/-- Settles O38: word `n` of either window is entry `n` of its table. -/
theorem zigzagWindowsReadTheirTables : Obligations.ZigzagWindowsReadTheirTables := by
  intro s n
  rw [regRead_zzgen_word, zzgenWord]
  refine ⟨regRead_zzRom_word s n, fun h => by rw [h]; rfl, fun t h => ?_⟩
  rw [h]
  dsimp only
  split
  · exact BitVec.toNat_setWidth_of_le (by decide)
  · rfl

/-! ### The read-write registers -/

/-- The offset of the PLANE register number `k` of channel `c` (R32 to R35). -/
def planeOffset (c : Fin 3) (k : Fin 4) : BitVec 12 := BitVec.ofNat 12 (0x040 + 0x10 * c.val + 4 * k.val)

theorem planeOffset_fields (c : Fin 3) (k : Fin 4) :
    ¬(planeOffset c k).toNat < 0x40 ∧ isPlaneOffset (planeOffset c k).toNat = true ∧
    planeIndex (planeOffset c k).toNat = c ∧ (planeOffset c k).toNat / 4 % 4 = k := by
  revert c k; decide

theorem regRead_plane (s : State) (c : Fin 3) (k : Fin 4) : regRead s (planeOffset c k) = planeWord (s.plane c) k := by
  obtain ⟨hcontrol, hplane, hindex, hreg⟩ := planeOffset_fields c k
  simp only [regRead, if_neg hcontrol, if_pos hplane, hindex, hreg]

theorem regWrite_plane (s : State) (c : Fin 3) (k : Fin 4) (v : Word) :
    regWrite s (planeOffset c k) v = { s with planes := s.planes.set c.val (planeWrite (s.plane c) k v) } := by
  obtain ⟨-, hplane, hindex, hreg⟩ := planeOffset_fields c k
  simp only [regWrite, if_pos hplane, hindex, hreg]

/-- Reading back a field of the low bits of a word masks the word. -/
theorem setWidth_extractLsb'_zero (v : Word) {n : Nat} (h : n ≤ 32) :
    (v.extractLsb' 0 n).setWidth 32 = v &&& BitVec.ofNat 32 (2 ^ n - 1) := by
  have hpow : 2 ^ n ≤ 2 ^ 32 := Nat.pow_le_pow_right (by decide) h
  apply BitVec.eq_of_toNat_eq
  rw [BitVec.toNat_setWidth_of_le h, BitVec.extractLsb'_toNat, Nat.shiftRight_zero, BitVec.toNat_and, BitVec.toNat_ofNat,
    Nat.mod_eq_of_lt (a := 2 ^ n - 1) (by omega), Nat.and_two_pow_sub_one_eq_mod]

theorem planeWord_planeWrite_same (p : PlaneRegs) (k : Fin 4) (v : Word) :
    planeWord (planeWrite p k v) k = if k = 1 ∨ k = 2 then v &&& 0xFFFF#32 else v := by
  match k with
  | 0 => rfl
  | 1 => exact setWidth_extractLsb'_zero v (by decide)
  | 2 => exact setWidth_extractLsb'_zero v (by decide)
  | 3 => rfl

theorem planeWord_planeWrite_other (p : PlaneRegs) {j k : Fin 4} (h : j ≠ k) (v : Word) :
    planeWord (planeWrite p k v) j = planeWord p j := by
  fin_cases k <;> fin_cases j <;> simp_all [planeWord, planeWrite]

theorem regRead_regWrite_plane_same (s : State) (c : Fin 3) (k : Fin 4) (v : Word) :
    regRead (regWrite s (planeOffset c k) v) (planeOffset c k) = if k = 1 ∨ k = 2 then v &&& 0xFFFF#32 else v := by
  rw [regRead_plane, regWrite_plane, State.plane, Vector.getElem_set_self, planeWord_planeWrite_same]

theorem regRead_regWrite_plane_other (s : State) {c d : Fin 3} {j k : Fin 4} (h : ¬(d = c ∧ j = k)) (v : Word) :
    regRead (regWrite s (planeOffset c k) v) (planeOffset d j) = regRead s (planeOffset d j) := by
  rw [regRead_plane, regRead_plane, regWrite_plane, State.plane]
  obtain rfl | hd := eq_or_ne d c
  · rw [Vector.getElem_set_self, planeWord_planeWrite_other _ fun hj => h ⟨rfl, hj⟩]
  · rw [Vector.getElem_set_ne _ _ (Fin.val_ne_of_ne hd.symm), State.plane]

theorem zero_append_three (x : BitVec 3) : 0#29 ++ x = x.setWidth 32 := by revert x; decide

/-- Settles O35: a register's word is the field it was written to, zero-extended. -/
theorem readWriteRegistersReadBack : Obligations.ReadWriteRegistersReadBack := by
  intro s v
  refine ⟨⟨?_, rfl⟩, ⟨?_, rfl⟩, fun c k => ⟨regRead_regWrite_plane_same s c k v, ?_, fun d j h => ?_⟩⟩
  · exact (zero_append_three _).trans (setWidth_extractLsb'_zero v (by decide))
  · exact (zero_append_three _).trans (setWidth_extractLsb'_zero v (by decide))
  · change regWrite s (planeOffset c k) v = { s with planes := (regWrite s (planeOffset c k) v).planes }
    rw [regWrite_plane]
  · exact regRead_regWrite_plane_other s h v

/-! ### STATUS, LAST_ERR and IRQ_STATUS, bit by bit -/

theorem toNat_append_eq {m n : Nat} (x : BitVec m) (y : BitVec n) : (x ++ y).toNat = 2 ^ n * x.toNat + y.toNat := by
  rw [BitVec.toNat_append, ← Nat.shiftLeft_add_eq_or_of_lt y.isLt, Nat.shiftLeft_eq, mul_comm]

/-- Settles O33: a concatenation is the sum of its parts at the weights of their lowest bits. -/
theorem statusAndLastErrFields : Obligations.StatusAndLastErrFields := by
  intro s v
  refine ⟨?_, ?_, rfl, rfl⟩
  · change (statusWord s).toNat = _
    simp only [statusWord, toNat_append_eq, BitVec.toNat_ofBool, BitVec.toNat_ofNat]
    omega
  · change (lastErrWord s).toNat = _
    simp only [lastErrWord, toNat_append_eq, BitVec.toNat_ofNat]
    omega

/-- Bits 0, 1 and 2 of IRQ_STATUS are its fields (R29). -/
theorem irqStatusWord_getLsbD (s : State) (i : Nat) :
    (irqStatusWord s).getLsbD i =
      if i = 0 then s.irqDone else if i = 1 then s.irqErr else if i = 2 then s.irqOverrun else false := by
  simp only [irqStatusWord, BitVec.getLsbD_append, BitVec.getLsbD_ofBool, BitVec.getLsbD_zero]
  obtain rfl | rfl | rfl | hi : i = 0 ∨ i = 1 ∨ i = 2 ∨ 3 ≤ i := by omega
  · simp
  · simp
  · simp
  · obtain ⟨k, rfl⟩ := Nat.exists_eq_add_of_le' hi
    simp

/-- Settles O34: on each of the three bits, clearing by `v` is masking with its complement. -/
theorem irqStatusWriteOneToClear : Obligations.IrqStatusWriteOneToClear := by
  intro s v
  refine ⟨?_, ?_, rfl⟩
  · change (irqStatusWord s).toNat = _
    simp only [irqStatusWord, toNat_append_eq, BitVec.toNat_ofBool, BitVec.toNat_ofNat]
    omega
  · change irqStatusWord (clearIrq v s) = irqStatusWord s &&& ~~~v
    refine BitVec.eq_of_getLsbD_eq fun i hi => ?_
    rw [BitVec.getLsbD_and, BitVec.getLsbD_not, irqStatusWord_getLsbD, irqStatusWord_getLsbD]
    split_ifs <;> simp_all

/-! ### The registers at reset -/

/-- The ROM holds Zigzag(8) (R160). -/
theorem perm8List_getD (k : Fin 64) : perm8List.getD k.val 64 = (zigzag 8).getD k.val 0 := by revert k; decide

/-- Of the registers at reset only ID, VERSION and the ROM do not read 0. -/
theorem regRead_reset_eq_zero {off : BitVec 12} (hconst : off.toNat ≠ 0 ∧ off.toNat ≠ 4)
    (hrom : off.toNat < 0x600 ∨ 0x700 ≤ off.toNat) : regRead State.reset off = 0#32 := by
  obtain h | h | h : off.toNat < 0x40 ∨ 0x40 ≤ off.toNat ∧ off.toNat < 0x70 ∨ 0x70 ≤ off.toNat := by omega
  · rw [regRead_control _ h]
    unfold readControl
    split
    · omega
    · omega
    all_goals rfl
  · have hplane : isPlaneOffset off.toNat = true := by simpa [isPlaneOffset] using h
    have hreset : State.reset.plane (planeIndex off.toNat) = PlaneRegs.reset := by simp [State.plane, State.reset]
    rw [regRead]
    simp only [hplane, if_true]
    rw [if_neg (by omega), hreset]
    unfold planeWord
    split <;> rfl
  · rw [regRead_above_planes _ h]
    split_ifs
    any_goals rfl
    omega

/-- Settles O41: the two constants, the ROM, and everything else 0. -/
theorem registersReadAtReset : Obligations.RegistersReadAtReset := by
  intro n
  split_ifs with hid hversion hrom
  · rw [hid]
    rfl
  · rw [hversion]
    rfl
  · obtain ⟨k, hk⟩ : ∃ k : Fin 64, n.val = 0x180 + k.val := ⟨⟨n.val - 0x180, by omega⟩, by simp; omega⟩
    rw [hk, Nat.mul_add, Nat.add_sub_cancel_left, regRead_zzRom_word, perm8List_getD]
  · have hoff : (BitVec.ofNat 12 (4 * n.val)).toNat = 4 * n.val := by
      rw [BitVec.toNat_ofNat]
      omega
    rw [regRead_reset_eq_zero (by omega) (by omega)]
    rfl

end Sys2Proof.Machine

/-! SUPPORT. R148: DctRef of a grid in range is finite and nowhere -0.0, since every value it meets is an integer multiple of a
fixed 2^-j below a fixed bound, which rounding keeps; then O48. -/

namespace Sys2Proof.Machine

/-! ### Multiples of 2^-j -/

/-- `v` is an integer multiple of 2^-j, the integer at most 2^n. -/
def OnGrid (j n : Nat) (v : Rat) : Prop := ∃ z : Int, |z| ≤ 2 ^ n ∧ v = z / 2 ^ j

theorem OnGrid.mono {j n n' : Nat} {v : Rat} (h : OnGrid j n v) (hn : n ≤ n') : OnGrid j n' v := by
  obtain ⟨z, hz, hv⟩ := h
  exact ⟨z, hz.trans (pow_le_pow_right₀ (by norm_num) hn), hv⟩

theorem OnGrid.add {j n : Nat} {v w : Rat} (hv : OnGrid j n v) (hw : OnGrid j n w) : OnGrid j (n + 1) (v + w) := by
  obtain ⟨x, hx, rfl⟩ := hv
  obtain ⟨y, hy, rfl⟩ := hw
  refine ⟨x + y, ?_, by rw [← add_div, Int.cast_add]⟩
  calc |x + y| ≤ |x| + |y| := abs_add_le x y
    _ ≤ 2 ^ (n + 1) := by rw [pow_succ]; omega

theorem OnGrid.mul {j j' n n' : Nat} {v w : Rat} (hv : OnGrid j n v) (hw : OnGrid j' n' w) :
    OnGrid (j + j') (n + n') (v * w) := by
  obtain ⟨x, hx, rfl⟩ := hv
  obtain ⟨y, hy, rfl⟩ := hw
  refine ⟨x * y, ?_, by rw [div_mul_div_comm, ← pow_add, Int.cast_mul]⟩
  rw [abs_mul, pow_add]
  exact mul_le_mul hx hy (abs_nonneg y) (by positivity)

theorem OnGrid.neg {j n : Nat} {v : Rat} (h : OnGrid j n v) : OnGrid j n (-v) := by
  obtain ⟨z, hz, rfl⟩ := h
  exact ⟨-z, by rwa [abs_neg], by rw [Int.cast_neg, neg_div]⟩

theorem onGrid_signFactor_mul_iff {j n : Nat} {v : Rat} (neg : Bool) : OnGrid j n (signFactor neg * v) ↔ OnGrid j n v := by
  cases neg
  · simp [signFactor]
  · have hneg : signFactor true * v = -v := neg_one_mul v
    exact hneg ▸ ⟨fun h => neg_neg v ▸ h.neg, OnGrid.neg⟩

theorem onGrid_iff_of_nonneg {j n : Nat} {v : Rat} (hv : 0 ≤ v) :
    OnGrid j n v ↔ ∃ z : Nat, z ≤ 2 ^ n ∧ v = z / 2 ^ j := by
  constructor
  · rintro ⟨z, hz, rfl⟩
    have hz0 : 0 ≤ z := by
      rw [le_div_iff₀ (by positivity), zero_mul] at hv
      exact_mod_cast hv
    lift z to Nat using hz0
    exact ⟨z, by rw [Nat.abs_cast] at hz; exact_mod_cast hz, by rw [Int.cast_natCast]⟩
  · rintro ⟨z, hz, rfl⟩
    exact ⟨z, by rw [Nat.abs_cast]; exact_mod_cast hz, by rw [Int.cast_natCast]⟩

/-! ### Rounding keeps the grid -/

/-- In units of the least subnormal 2^-1074: a multiple of 2^q of at most 2^(n + q) rounds to another such multiple, and to 0 only
from 0. -/
theorem IsNearestEven.multiple {r k q n z : Nat} {x : Rat} (h : IsNearestEven r x) (hk : k = 0 ∨ 2 ^ 52 ≤ x)
    (hx : x * 2 ^ k = z * 2 ^ q) (hz : z ≤ 2 ^ n) : ∃ y : Nat, r * 2 ^ k = y * 2 ^ q ∧ y ≤ 2 ^ n ∧ (y = 0 → z = 0) := by
  obtain hkq | hkq := le_or_gt k q
  · -- the value is a whole number of last places, so it is kept
    have hxz : x = (z * 2 ^ (q - k) : Nat) := by
      refine mul_right_cancel₀ (pow_ne_zero k two_ne_zero) (hx.trans ?_)
      push_cast
      rw [mul_assoc, ← pow_add, Nat.sub_add_cancel hkq]
    obtain rfl : r = z * 2 ^ (q - k) := le_antisymm (h.le_of_le hxz.le) (h.ge_of_ge hxz.ge)
    exact ⟨z, by rw [mul_assoc, ← pow_add, Nat.sub_add_cancel hkq], hz, id⟩
  · -- the last place is a multiple of 2^q, and 2^52 of them bound the value from below
    have hx52 : 2 ^ 52 ≤ x := hk.resolve_left (by omega)
    have hr52 : 2 ^ 52 ≤ r := h.ge_of_ge (by exact_mod_cast hx52)
    have hbound : x * 2 ^ k ≤ 2 ^ (n + q) := by
      rw [hx, pow_add]
      gcongr
      exact_mod_cast hz
    have hknq : k ≤ n + q := by
      by_contra hlt
      have hpow : (2 : Rat) ^ (n + q) < 2 ^ k := pow_lt_pow_right₀ (by norm_num) (by omega)
      have hone : (2 : Rat) ^ k * 1 ≤ 2 ^ k * x := by gcongr; linarith
      linarith [mul_comm x (2 ^ k)]
    have hr : r ≤ 2 ^ (n + q - k) := h.le_of_le (by
      rw [Nat.cast_pow, Nat.cast_ofNat, ← mul_le_mul_iff_left₀ (by positivity : (0 : Rat) < 2 ^ k), ← pow_add,
        Nat.sub_add_cancel hknq]
      exact hbound)
    refine ⟨r * 2 ^ (k - q), by rw [mul_assoc, ← pow_add, Nat.sub_add_cancel hkq.le], ?_, fun h0 => ?_⟩
    · calc r * 2 ^ (k - q) ≤ 2 ^ (n + q - k) * 2 ^ (k - q) := by gcongr
        _ = 2 ^ n := by rw [← pow_add]; congr 1; omega
    · have hpos : 0 < r * 2 ^ (k - q) := by positivity
      omega

/-- A double on the grid of 2^-j up to 2^n. -/
def DoubleOnGrid (j n : Nat) (d : Double) : Prop := f64Finite d = true ∧ OnGrid j n (f64ToRat d)

theorem two_pow_lt_overflow_threshold : (2 : Rat) ^ 1023 < 2 ^ 1024 - 2 ^ 970 := by
  rw [pow_succ (2 : Rat) 1023, mul_two, lt_sub_iff_add_lt, add_lt_add_iff_left]
  exact pow_lt_pow_right₀ (by norm_num) (by norm_num)

/-- A value on the grid is rounded to a double on the grid, and to a zero only from zero. -/
theorem f64Make_roundMagnitude_onGrid {neg : Bool} {m p j n : Nat} (hj : j ≤ 1074) (hn : n ≤ 1023)
    (h : OnGrid j n (signFactor neg * (m * 2 ^ p / 2 ^ 2148))) :
    DoubleOnGrid j n (f64Make neg (f64RoundMagnitude m p)) ∧
    (f64ToRat (f64Make neg (f64RoundMagnitude m p)) = 0 → signFactor neg * (m * 2 ^ p / 2 ^ 2148) = (0 : Rat)) := by
  rw [onGrid_signFactor_mul_iff, onGrid_iff_of_nonneg (by positivity)] at h
  obtain ⟨z, hz, hvz⟩ := h
  obtain ⟨k, r, x, hbits, hvalue, hr, hx0, hx, hk⟩ := f64RoundMagnitude_spec m p
  have hunits (y : Rat) : y / 2 ^ j = y * 2 ^ (1074 - j) / 2 ^ 1074 := by
    rw [pow_sub₀ _ two_ne_zero hj]
    field_simp
  have hxz : x * 2 ^ k / 2 ^ 1074 = z / 2 ^ j := hvalue.symm.trans hvz
  obtain ⟨y, hry, hy, hyz⟩ := hr.multiple hk ((div_left_inj' (by positivity)).mp (hxz.trans (hunits z))) hz
  have hlt : k * 2 ^ 52 + r < 2047 * 2 ^ 52 := by
    rw [← not_le, overflow_iff hr hx hk, hxz, not_le]
    calc (z : Rat) / 2 ^ j ≤ z := div_le_self (by positivity) (one_le_pow₀ (by norm_num))
      _ ≤ 2 ^ n := by exact_mod_cast hz
      _ ≤ 2 ^ 1023 := pow_le_pow_right₀ (by norm_num) hn
      _ < 2 ^ 1024 - 2 ^ 970 := two_pow_lt_overflow_threshold
  have hrat : f64ToRat (f64Make neg (f64RoundMagnitude m p)) = signFactor neg * (y / 2 ^ j) := by
    have hry' : (r : Rat) * 2 ^ k = y * 2 ^ (1074 - j) := by exact_mod_cast hry
    rw [hbits, min_eq_left hlt.le, f64ToRat_make neg (hr.le_of_le (by exact_mod_cast hx.le))
      (hk.imp_right fun h => hr.ge_of_ge (by exact_mod_cast h)) hlt, hunits, hry']
  refine ⟨⟨?_, ?_⟩, fun h0 => ?_⟩
  · rw [hbits, f64Finite_make_iff neg (min_le_right ..), min_eq_left hlt.le]
    exact hlt
  · rw [hrat, onGrid_signFactor_mul_iff, onGrid_iff_of_nonneg (by positivity)]
    exact ⟨y, hy, rfl⟩
  · have hy0 : y = 0 := by
      rw [hrat, ← abs_eq_zero, abs_signFactor_mul] at h0
      simpa using h0
    rw [hvz, hyz hy0]
    simp

/-- The value that an integer `z` at scale `q` hands to the rounding function; an exact zero may be given either sign. -/
theorem signFactor_mul_scaled (z : Int) (neg : Bool) (q : Nat) :
    signFactor (if z = 0 then neg else z < 0) * (z.natAbs * 2 ^ (q + 1074) / 2 ^ 2148) = z * 2 ^ q / 2 ^ 1074 := by
  rw [← mul_div_assoc, ← mul_assoc, signFactor_mul_natAbs, pow_add, show 2148 = 1074 + 1074 from rfl, pow_add _ 1074 1074,
    ← mul_assoc, mul_div_mul_right _ _ (by positivity)]

theorem f64OfInt_onGrid {z : Int} {n : Nat} (hz : |z| ≤ 2 ^ n) (hn : n ≤ 1023) : DoubleOnGrid 0 n (f64OfInt z) := by
  have hneg : (z < 0 : Bool) = if z = 0 then false else (z < 0 : Bool) := by
    split <;> simp_all
  have hvalue : signFactor (if z = 0 then false else z < 0) * (z.natAbs * 2 ^ 2148 / 2 ^ 2148) = (z : Rat) := by
    rw [signFactor_mul_scaled z false 1074, mul_div_cancel_right₀ _ (by positivity)]
  rw [f64OfInt, hneg]
  exact (f64Make_roundMagnitude_onGrid (by decide) hn (hvalue ▸ ⟨z, hz, by simp⟩)).1

theorem f64Mul_onGrid {j j' n n' : Nat} {a b : Double} (ha : DoubleOnGrid j n a) (hb : DoubleOnGrid j' n' b)
    (hj : j + j' ≤ 1074) (hn : n + n' ≤ 1023) :
    DoubleOnGrid (j + j') (n + n') (f64Mul a b) ∧ (f64ToRat (f64Mul a b) = 0 → f64ToRat a = 0 ∨ f64ToRat b = 0) := by
  obtain ⟨ha, hga⟩ := ha
  obtain ⟨hb, hgb⟩ := hb
  rw [← mul_eq_zero, f64Mul_of_finite ha hb, f64ToRat_mul_eq]
  exact f64Make_roundMagnitude_onGrid hj hn (f64ToRat_mul_eq a b ▸ hga.mul hgb)

theorem f64Add_onGrid {j n : Nat} {a b : Double} (ha : DoubleOnGrid j n a) (hb : DoubleOnGrid j n b)
    (hj : j ≤ 1074) (hn : n + 1 ≤ 1023) :
    DoubleOnGrid j (n + 1) (f64Add a b) ∧ (f64ToRat (f64Add a b) = 0 → f64ToRat a + f64ToRat b = 0) := by
  obtain ⟨ha, hga⟩ := ha
  obtain ⟨hb, hgb⟩ := hb
  have hsum := (f64ToRat_add_eq a b).trans (signFactor_mul_scaled (exactSum a b) (f64Sign a && f64Sign b) _).symm
  rw [f64Add_of_finite ha hb, hsum]
  exact f64Make_roundMagnitude_onGrid hj hn (hsum ▸ hga.add hgb)

/-! ### The constants and the terms of DctRef -/

/-- An encoding is on the grid that its scale says, a zero on every one. -/
theorem doubleOnGrid_of_scale {b : Double} (hfin : f64Finite b = true)
    (hscale : f64Significand b = 0 ∨ 1019 ≤ f64Scale b ∧ f64Scale b ≤ 1022) : DoubleOnGrid 55 56 b := by
  refine ⟨hfin, ?_⟩
  rw [f64ToRat_eq, onGrid_signFactor_mul_iff, onGrid_iff_of_nonneg (by positivity)]
  obtain h0 | ⟨hlo, hhi⟩ := hscale
  · exact ⟨0, by positivity, by simp [h0]⟩
  · obtain ⟨k, hk⟩ := Nat.exists_eq_add_of_le hlo
    refine ⟨f64Significand b * 2 ^ k, ?_, ?_⟩
    · calc f64Significand b * 2 ^ k ≤ 2 ^ 53 * 2 ^ 3 := by
            gcongr
            · exact (f64Significand_lt b).le
            · norm_num
            · omega
        _ = 2 ^ 56 := by norm_num
    · rw [hk, pow_add, show 1074 = 1019 + 55 from rfl, pow_add _ 1019 55]
      push_cast
      field_simp

theorem cosTable_onGrid (n u : Fin 8) : DoubleOnGrid 55 56 (cosTable n u) :=
  doubleOnGrid_of_scale (by revert n u; decide +kernel) (by revert n u; decide +kernel)

theorem alpha64_onGrid (k : Nat) : DoubleOnGrid 55 56 (alpha64 k) := by
  unfold alpha64
  split
  · exact doubleOnGrid_of_scale (by decide) (by decide)
  · exact doubleOnGrid_of_scale (by decide) (by decide)

theorem alpha64_pos (k : Nat) : f64Sign (alpha64 k) = false ∧ f64ToRat (alpha64 k) ≠ 0 := by
  unfold alpha64
  split <;> exact ⟨by decide, by decide +kernel⟩

theorem dctTerm_onGrid {g : BlockGrid} (hg : GridInRange g) (x y ix iy : Fin 8) :
    DoubleOnGrid 110 120 (dctTerm g x y ix iy) := by
  have hentry : |g[8 * iy.val + ix.val].toInt - 128| ≤ 2 ^ 8 := by
    have hle : g[8 * iy.val + ix.val].toNat ≤ 255 := hg ⟨8 * iy.val + ix.val, by omega⟩
    rw [BitVec.toInt_eq_toNat_of_lt (by omega), abs_le]
    omega
  have hint := f64OfInt_onGrid hentry (by decide)
  exact (f64Mul_onGrid (f64Mul_onGrid hint (cosTable_onGrid ix x) (by decide) (by decide)).1 (cosTable_onGrid iy y)
    (by decide) (by decide)).1

/-- A partial sum of `DctRef`: on the grid, and not -0.0. -/
def IsPartialSum (n : Nat) (acc : Double) : Prop := DoubleOnGrid 110 n acc ∧ acc ≠ f64NegZero

theorem IsPartialSum.add {n : Nat} {acc t : Double} (hacc : IsPartialSum n acc) (ht : DoubleOnGrid 110 n t) (hn : n + 1 ≤ 1023) :
    IsPartialSum (n + 1) (f64Add acc t) := by
  obtain ⟨hgrid, hne⟩ := hacc
  obtain ⟨hsum, hzero⟩ := f64Add_onGrid hgrid ht (by decide) hn
  refine ⟨hsum, fun hneg => hne ?_⟩
  have hexact : f64ToRat acc + f64ToRat t = 0 := hzero (by rw [hneg]; decide +kernel)
  obtain ⟨-, -, hsign⟩ := additionIsCorrectlyRounded acc t hgrid.1 ht.1
  exact (hsign hneg hexact).1

theorem IsPartialSum.foldl {ts : List Double} (hts : ∀ t ∈ ts, DoubleOnGrid 110 120 t) {n : Nat} {acc : Double}
    (hacc : IsPartialSum n acc) (hlo : 120 ≤ n) (hhi : n + ts.length ≤ 1023) :
    IsPartialSum (n + ts.length) (ts.foldl f64Add acc) := by
  induction ts generalizing n acc with
  | nil => exact hacc
  | cons t ts ih =>
    rw [List.forall_mem_cons] at hts
    rw [List.length_cons] at hhi ⊢
    have ht : DoubleOnGrid 110 n t := ⟨hts.1.1, hts.1.2.mono hlo⟩
    have hrest := ih hts.2 (hacc.add ht (by omega)) (by omega) (by omega)
    rwa [Nat.add_right_comm] at hrest

/-- The terms of R147 in the order they are added. -/
def dctTerms (g : BlockGrid) (x y : Nat) : List Double :=
  (List.finRange 8).flatMap fun ix => (List.finRange 8).map fun iy => dctTerm g x y ix iy

theorem dctSum_eq_foldl (g : BlockGrid) (x y : Nat) : dctSum g x y = (dctTerms g x y).foldl f64Add (f64OfInt 0) := by
  simp only [dctSum, dctTerms, List.foldl_flatMap, List.foldl_map]

theorem dctSum_isPartialSum {g : BlockGrid} (hg : GridInRange g) (x y : Fin 8) : IsPartialSum 184 (dctSum g x y) := by
  have hterms : ∀ t ∈ dctTerms g x y, DoubleOnGrid 110 120 t := by
    simp only [dctTerms, List.mem_flatMap, List.mem_map]
    rintro _ ⟨ix, -, iy, -, rfl⟩
    exact dctTerm_onGrid hg x y ix iy
  have hlength : (dctTerms g x y).length = 64 := by simp [dctTerms]
  have hrat : f64ToRat (f64OfInt 0) = 0 := by decide +kernel
  have hzero : IsPartialSum 120 (f64OfInt 0) := ⟨⟨by decide, 0, by norm_num, by rw [hrat]; norm_num⟩, by decide⟩
  have hsum := hzero.foldl hterms le_rfl (by omega)
  rwa [← dctSum_eq_foldl, hlength] at hsum

theorem f64Sign_mul {a b : Double} (ha : f64Finite a = true) (hb : f64Finite b = true) :
    f64Sign (f64Mul a b) = (f64Sign a != f64Sign b) := (multiplicationIsCorrectlyRounded a b ha hb).2.2

/-- The factor of R147 is positive and does not underflow, so a coefficient is -0.0 only where the sum is. -/
theorem dctCoeff_finite_ne_negZero {g : BlockGrid} (hg : GridInRange g) (x y : Fin 8) :
    f64Finite (dctCoeff g x y) = true ∧ dctCoeff g x y ≠ f64NegZero := by
  obtain ⟨hsum, hne⟩ := dctSum_isPartialSum hg x y
  obtain ⟨hsx, hx0⟩ := alpha64_pos x
  obtain ⟨hsy, hy0⟩ := alpha64_pos y
  obtain ⟨hfactor, hfactor0⟩ := f64Mul_onGrid (alpha64_onGrid x) (alpha64_onGrid y) (by decide) (by decide)
  have hsign : f64Sign (f64Mul (alpha64 x) (alpha64 y)) = false := by
    rw [f64Sign_mul (alpha64_onGrid x).1 (alpha64_onGrid y).1, hsx, hsy]
    rfl
  obtain ⟨hcoeff, hcoeff0⟩ := f64Mul_onGrid hfactor hsum (by decide) (by decide)
  refine ⟨hcoeff.1, fun hneg => hne (eq_f64NegZero ?_ ?_)⟩
  · have hs := congrArg f64Sign hneg
    rw [dctCoeff, f64Sign_mul hfactor.1 hsum.1, hsign, Bool.false_bne] at hs
    exact hs.trans (by decide)
  · have hzero : f64ToRat (dctCoeff g x y) = 0 := by
      rw [hneg]
      decide +kernel
    exact (hcoeff0 hzero).resolve_left fun h => (hfactor0 h).elim hx0 hy0

/-- R148. -/
theorem dctRef_finiteNotNegZero {g : BlockGrid} (hg : GridInRange g) : FiniteNotNegZero (dctRef g) := by
  intro n
  rw [dctRef, Vector.getElem_ofFn]
  exact dctCoeff_finite_ne_negZero hg ⟨n.val / 8, by omega⟩ ⟨n.val % 8, by omega⟩

/-! ### REORDER is a permutation -/

/-- The reading order of REORDER as a permutation of the 64 cells, with the inverse of R164. -/
def perm8Equiv : Equiv.Perm (Fin 64) where
  toFun k := (perm8 k).toFin
  invFun n := Fin.ofNat 64 (inv8List.getD n.val 0)
  left_inv k := by revert k; decide
  right_inv n := by revert n; decide

/-- R166. -/
theorem reorder_perm (v : CoeffGrid) : (reorder v).toList.Perm v.toList := by
  have hreorder : (reorder v).toList = List.ofFn ((fun n : Fin 64 => v[n]) ∘ perm8Equiv) := Vector.toList_ofFn
  have hv : v.toList = List.ofFn fun n : Fin 64 => v[n] := by
    rw [← Vector.toList_ofFn]
    exact congrArg Vector.toList Vector.ofFn_getElem.symm
  rw [hreorder, hv]
  exact Equiv.Perm.ofFn_comp_perm perm8Equiv _

/-- Settles O48: the invariant names the grid each valid buffer comes from, and R148 and R166 say the rest. -/
theorem validBuffersHoldLegalValues : Obligations.ValidBuffersHoldLegalValues := by
  intro s h
  refine ⟨fun g hg n => ?_, fun v hv => ?_, fun c d hd => ?_⟩
  · have hle : g[n.val].toNat ≤ 255 := h.bg g hg n
    rw [BitVec.toInt_eq_toNat_of_lt (by omega)]
    omega
  · obtain ⟨g, hg, rfl⟩ := h.cg v hv
    exact dctRef_finiteNotNegZero hg
  · obtain ⟨g, hg, rfl⟩ := h.desc c d hd
    refine ⟨g, hg, reorder_perm _, fun n => ?_⟩
    rw [reorder, Vector.getElem_ofFn]
    exact dctRef_finiteNotNegZero hg (perm8 n).toFin

end Sys2Proof.Machine

/-! SUPPORT. The Host's accesses, one by one: which stop the machine and what the others do (R60, R61, R64); O39 and O49. -/

namespace Sys2Proof.Machine

theorem registerAccess_of_illegal {off : BitVec 12} {bits : Nat} (t : State) (h : bits ≠ 32 ∨ off.toNat % 4 ≠ 0) :
    ∃ f, registerAccess off bits t = .fault f := by
  obtain ⟨-, ho⟩ | ⟨-, -, ho⟩ | ⟨hb, ha, -⟩ := registerAccess_cases off bits t
  · exact ⟨_, ho⟩
  · exact ⟨_, ho⟩
  · exact absurd h (by simp [hb, ha])

theorem hostAccess_regRead {off : BitVec 12} (s : State) (ha : off.toNat % 4 = 0) :
    hostAccess (.regRead off 32) s = .next { s with hostReads := (off, regRead s off) :: s.hostReads } :=
  registerAccess_of_legal ha

theorem hostAccess_regWrite {off : BitVec 12} (s : State) (v : Word) (ha : off.toNat % 4 = 0) :
    hostAccess (.regWrite off 32 v) s = .next (regWrite s off v) :=
  registerAccess_of_legal ha

/-- Settles O39: both kinds of access pass through the one check of R61. -/
theorem hostAccessesFaultOrTakeEffect : Obligations.HostAccessesFaultOrTakeEffect := fun s _ _ v =>
  ⟨fun h => ⟨registerAccess_of_illegal _ h, registerAccess_of_illegal _ h⟩,
    fun ha => ⟨hostAccess_regRead s ha, hostAccess_regWrite s v ha⟩⟩

/-- A Host access answers a next state, or it is an illegal one and faults. -/
theorem hostAccess_cases (op : HostOp) (s : State) :
    (∃ t, hostAccess op s = .next t) ∨ (op.legal = false ∧ ∃ f, hostAccess op s = .fault f) := by
  have hregister (off : BitVec 12) (bits : Nat) (t : State) :
      (∃ u, registerAccess off bits t = .next u) ∨
        ((bits == 32 && off.toNat % 4 == 0) = false ∧ ∃ f, registerAccess off bits t = .fault f) := by
    obtain ⟨hb, ho⟩ | ⟨-, ha, ho⟩ | ⟨-, -, ho⟩ := registerAccess_cases off bits t
    · exact .inr ⟨by simp [hb], _, ho⟩
    · exact .inr ⟨by simp [ha], _, ho⟩
    · exact .inl ⟨_, ho⟩
  cases op with
  | regRead off bits => exact hregister off bits _
  | regWrite off bits v => exact hregister off bits _
  | poll off mask val => exact hregister off 32 _
  | join off => exact .inl ⟨_, rfl⟩
  | readBeyond off => exact .inr ⟨rfl, _, rfl⟩
  | mem8 a b => exact .inl ⟨_, rfl⟩

theorem hostStep_cons {s : State} {op : HostOp} {rest : List HostOp} (h : s.hostProgram = op :: rest) :
    hostStep s = hostAccess op { s with hostProgram := rest } := by
  simp only [hostStep, h]

/-- The outcome `o` of a step from `s` is a next state, or a fault of the Host's next access, an illegal one. -/
def StopsOnlyAtBadAccess (s : State) (o : Host.Outcome State Fault Refusal) : Prop :=
  (∃ t, o = .next t) ∨ ∃ f op rest, o = .fault f ∧ s.hostProgram = op :: rest ∧ op.legal = false

theorem hostStep_stopsOnlyAtBadAccess (s : State) : StopsOnlyAtBadAccess s (hostStep s) := by
  rcases hp : s.hostProgram with _ | ⟨op, rest⟩
  · exact .inl ⟨s, by simp only [hostStep, hp]⟩
  · rw [hostStep_cons hp]
    obtain hnext | ⟨hop, f, hf⟩ := hostAccess_cases op { s with hostProgram := rest }
    · exact .inl hnext
    · exact .inr ⟨f, op, rest, hf, hp, hop⟩

theorem engineStep_stopsOnlyAtBadAccess (s : State) : StopsOnlyAtBadAccess s (engineStep s) := by
  obtain ⟨t, ht, -⟩ := engineStep_engineResult s
  exact .inl ⟨t, ht⟩

theorem step_stopsOnlyAtBadAccess (s : State) : StopsOnlyAtBadAccess s (step s) := by
  obtain ⟨rest, -, hs⟩ | ⟨rest, -, hs⟩ | ⟨rest, -, hs⟩ | ⟨-, hs | hs⟩ := step_cases s <;> rw [hs]
  · exact hostStep_stopsOnlyAtBadAccess { s with schedule := rest }
  · exact engineStep_stopsOnlyAtBadAccess { s with schedule := rest }
  · exact .inl ⟨_, rfl⟩
  · exact engineStep_stopsOnlyAtBadAccess s
  · exact hostStep_stopsOnlyAtBadAccess s

/-- Settles O49: the Engine and a reset always answer a next state, and the Host's access faults only where it is illegal. -/
theorem onlyBadHostAccessesStopTheMachine : Obligations.OnlyBadHostAccessesStopTheMachine := by
  intro s
  obtain ⟨t, ht⟩ | ⟨f, op, rest, hf, hp, hop⟩ := step_stopsOnlyAtBadAccess s
  · rw [ht]
    exact ⟨by simp, by simp⟩
  · rw [hf]
    exact ⟨by simp, fun _ _ => ⟨op, rest, hp, hop⟩⟩

end Sys2Proof.Machine

/-! SUPPORT. The samples a command reads: the values a byte held (R74), and the read set of a plane, which its 64 cells make up
(R66, R68, R122); O45 and O16. -/

namespace Sys2Proof.Machine

/-! ### The values a byte held -/

theorem sampleByte_mem_bytesHeld (s : State) (l : Latch) (c : Fin 3) (a : Nat) : sampleByte s l c a ∈ bytesHeld s l a := by
  rcases hheld : bytesHeld s l a with _ | ⟨v, _ | ⟨w, vs⟩⟩
  · cases hheld
  · simp [sampleByte, hheld]
  · have hlt : Config.sampleDraw s.drawIndex c.val a % (v :: w :: vs).length < (v :: w :: vs).length :=
      Nat.mod_lt _ (Nat.succ_pos _)
    simp only [sampleByte, hheld]
    exact List.getD_eq_getElem _ _ hlt ▸ List.getElem_mem hlt

/-- `l` after a sample write at `a` that replaced the value `old`. -/
def Latch.overwrite (l : Latch) (a : Nat) (old : Byte) : Latch := { l with overwritten := (a, old) :: l.overwritten }

theorem bytesHeld_writeSample_same {s : State} (l : Latch) (a : Nat) (b : Byte) (hm : Memory.wf s.mem) :
    bytesHeld (writeSample a b s) (l.overwrite a (Memory.read s.mem a)) a = b :: bytesHeld s l a := by
  simp [bytesHeld, Latch.overwrite, Memory.read_write_same hm]

theorem bytesHeld_writeSample_other (s : State) (l : Latch) {a a' : Nat} (b : Byte) (h : a' ≠ a) :
    bytesHeld (writeSample a b s) (l.overwrite a (Memory.read s.mem a)) a' = bytesHeld s l a' := by
  simp [bytesHeld, Latch.overwrite, Memory.read_write_other h, h.symm]

/-- Settles O45: a write puts its value in front of those the byte held, and leaves other bytes' values alone. -/
theorem sampleReadsReturnAValueHeld : Obligations.SampleReadsReturnAValueHeld := by
  intro s l c a
  refine ⟨sampleByte_mem_bytesHeld s l c a, sampleByte_of_not_overwritten, fun b a' hm hl =>
    ⟨l.overwrite a (Memory.read s.mem a), by rw [writeSample_latch, hl]; rfl, rfl, ?_, fun x => ?_⟩⟩
  · rw [bytesHeld_writeSample_same l a b hm]
    exact List.mem_cons_self
  · by_cases ha : a' = a
    · subst ha
      rw [bytesHeld_writeSample_same l a' b hm, List.mem_cons]
      tauto
    · rw [bytesHeld_writeSample_other s l b ha]
      tauto

/-! ### The read set of a plane -/

theorem edge_le_iff {e d x : Nat} : edge e d ≤ x ↔ e * d ≤ 8 * x + 3 := by
  unfold edge
  omega

theorem lt_edge_iff {e d x : Nat} : x < edge e d ↔ 8 * x + 3 < e * d := by
  unfold edge
  omega

theorem edge_eight (d : Nat) : edge 8 d = d := by
  unfold edge
  omega

theorem edge_mono {e e' : Nat} (h : e ≤ e') (d : Nat) : edge e d ≤ edge e' d := by
  unfold edge
  gcongr

theorem mem_cellRange {i d x : Nat} : x ∈ cellRange i d ↔ edge i d ≤ x ∧ x < edge (i + 1) d := by
  rw [cellRange, List.mem_range'_1]
  omega

/-- The cells cover a dimension exactly (R122): coordinate `x` lies in cell (8x + 3) / d. -/
theorem exists_mem_cellRange_iff {d x : Nat} : (∃ i : Fin 8, x ∈ cellRange i d) ↔ x < d := by
  constructor
  · rintro ⟨i, hi⟩
    calc x < edge (i + 1) d := (mem_cellRange.mp hi).2
      _ ≤ edge 8 d := edge_mono i.isLt d
      _ = d := edge_eight d
  · intro hx
    have hlt : (8 * x + 3) / d < 8 := Nat.div_lt_of_lt_mul (by omega)
    refine ⟨⟨(8 * x + 3) / d, hlt⟩, mem_cellRange.mpr ⟨edge_le_iff.mpr ?_, lt_edge_iff.mpr ?_⟩⟩
    · exact Nat.div_mul_le_self (8 * x + 3) d
    · exact (Nat.div_lt_iff_lt_mul (by omega)).mp (Nat.lt_succ_self _)

theorem mem_cellAddrs {p : PlaneRegs} {i j a : Nat} :
    a ∈ cellAddrs p i j ↔
      ∃ x y, x ∈ cellRange i p.width.toNat ∧ y ∈ cellRange j p.height.toNat ∧ a = sampleAddr p x y := by
  simp only [cellAddrs, List.mem_flatMap, List.mem_map]
  constructor
  · rintro ⟨y, hy, x, hx, rfl⟩
    exact ⟨x, y, hx, hy, rfl⟩
  · rintro ⟨x, y, hx, hy, rfl⟩
    exact ⟨y, hy, x, hx, rfl⟩

/-- The addresses the 64 cells read are the plane's read set (R68, R122). -/
theorem exists_mem_cellAddrs_iff {p : PlaneRegs} {a : Nat} : (∃ i j : Fin 8, a ∈ cellAddrs p i j) ↔ InReadSet p a := by
  simp only [mem_cellAddrs, InReadSet, ← exists_mem_cellRange_iff]
  constructor
  · rintro ⟨i, j, x, y, hx, hy, rfl⟩
    exact ⟨x, y, ⟨i, hx⟩, ⟨j, hy⟩, rfl⟩
  · rintro ⟨x, y, ⟨i, hx⟩, ⟨j, hy⟩, rfl⟩
    exact ⟨i, j, x, y, hx, hy, rfl⟩

theorem planeReadFaults_of_inReadSet {pl : Platform} {p : PlaneRegs} {a : Nat} (ha : InReadSet p a)
    (hf : sampleReadFault pl a = true) : planeReadFaults pl p = true := by
  obtain ⟨i, j, hij⟩ := exists_mem_cellAddrs_iff.mpr ha
  refine List.any_eq_true.mpr ⟨8 * j + i, List.mem_range.mpr (by omega), List.any_eq_true.mpr ⟨a, ?_, hf⟩⟩
  rwa [show (8 * j.val + i.val) % 8 = i by omega, show (8 * j.val + i.val) / 8 = j by omega]

theorem reducePlane_of_readFault {s : State} {l : Latch} {c : Fin 3} {a : Nat} (hp : PlaneOk s.platform l c)
    (ha : InReadSet (l.plane c) a) (hf : sampleReadFault s.platform a = true) :
    reducePlane s l c = .error ⟨.busError, chBits c⟩ := by
  simp only [reducePlane, validatePlane_of_ok hp, if_pos (planeReadFaults_of_inReadSet ha hf)]

/-! ### REDUCE and RUN_CH on a plane that cannot be reduced -/

theorem channelOperand_chBits (c : Fin 3) : channelOperand (chBits c) = .ok c := by revert c; decide

theorem exec_reduce_of_error {s : State} {l : Latch} {c : Fin 3} {e : CmdError} (hl : s.latch = some l)
    (h : reducePlane s l c = .error e) : exec (.reduce (chBits c)) s = .next (takeError l.cmd e s) :=
  complete_of_error hl (by rw [channelOperand_chBits]; simp only [bind, Except.bind, h])

theorem exec_runCh_of_error {s : State} {l : Latch} {c : Fin 3} {e : CmdError} (hl : s.latch = some l)
    (h : reducePlane s l c = .error e) : exec (.runCh (chBits c)) s = .next (takeError l.cmd e s) :=
  complete_of_error hl (by rw [channelOperand_chBits]; simp only [bind, Except.bind, h])

/-- Settles O16: the address lies in one of the 64 cells, so reducing the plane meets the fault. -/
theorem readFaultIsBusError : Obligations.ReadFaultIsBusError := by
  intro s l c a hl hp ha hf
  have hreduce := reducePlane_of_readFault hp ha hf
  exact ⟨exec_reduce_of_error hl hreduce, exec_runCh_of_error hl hreduce⟩

end Sys2Proof.Machine

/-! SUPPORT. What the completion of a command does not see: an update of the state that touches neither what commands read nor what
they write commutes with it. O44 for the bytes outside the read sets; the runs of O11 and O59 for the Host and the schedule. -/

namespace Sys2Proof.Machine

/-- `f` changes nothing that the completion of `l` in `s` reads, and commutes with all that completions write. -/
structure Unseen (s : State) (l : Latch) (f : State → State) : Prop where
  latch       : (f s).latch = s.latch
  bg          : (f s).bg = s.bg
  cg          : (f s).cg = s.cg
  platform    : (f s).platform = s.platform
  reducePlane : ∀ c, reducePlane (f s) l c = reducePlane s l c
  blockGrid   : ∀ g t, commitBlockGrid g (f t) = f (commitBlockGrid g t)
  coeffGrid   : ∀ v t, commitCoeffGrid v (f t) = f (commitCoeffGrid v t)
  descriptor  : ∀ c d t, commitDescriptor c d (f t) = f (commitDescriptor c d t)
  zigzag      : ∀ z t, commitZigzag z (f t) = f (commitZigzag z t)
  succeed     : ∀ w ch t, succeed w ch (f t) = f (succeed w ch t)
  takeError   : ∀ w e t, takeError w e (f t) = f (takeError w e t)

section
variable {s : State} {l : Latch} {f : State → State}

theorem Unseen.complete (hf : Unseen s l f) (hl : s.latch = some l) {ch : BitVec 2} {body body' : Latch → Except CmdError State}
    (hbody : body' l = f <$> body l) : ∃ t, complete ch body s = .next t ∧ complete ch body' (f s) = .next (f t) := by
  have hl' : (f s).latch = some l := hf.latch.trans hl
  rcases hb : body l with e | t
  · exact ⟨_, complete_of_error hl hb, hf.takeError l.cmd e s ▸ complete_of_error hl' (by rw [hbody, hb]; rfl)⟩
  · exact ⟨_, complete_of_ok hl hb, hf.succeed l.cmd ch t ▸ complete_of_ok hl' (by rw [hbody, hb]; rfl)⟩

theorem Unseen.exec (hf : Unseen s l f) (hl : s.latch = some l) (i : Instr) :
    ∃ t, exec i s = .next t ∧ exec i (f s) = .next (f t) := by
  cases i with
  | nop => exact hf.complete hl (ch := 0#2) (body := fun _ => .ok s) (body' := fun _ => .ok (f s)) rfl
  | reduce ch => exact hf.complete hl (by simp only [map_bind, map_pure, hf.reducePlane, hf.blockGrid])
  | dct =>
    refine hf.complete hl ?_
    rw [hf.bg]
    cases s.bg with
    | none => rfl
    | some g => exact congrArg Except.ok (hf.coeffGrid (dctRef g) s)
  | reorder ch =>
    refine hf.complete hl ?_
    rw [map_bind, hf.cg]
    cases s.cg with
    | none => rfl
    | some v => simp only [map_pure, hf.descriptor]
  | runCh ch =>
    exact hf.complete hl (by simp only [map_bind, map_pure, hf.reducePlane, hf.blockGrid, hf.coeffGrid, hf.descriptor])
  | runFrame =>
    exact hf.complete hl (by
      simp only [map_bind, map_pure, hf.platform, hf.reducePlane, hf.blockGrid, hf.coeffGrid, hf.descriptor])
  | zzgen m => exact hf.complete hl (by simp only [map_bind, map_pure, hf.zigzag])

theorem Unseen.engineStep (hf : Unseen s l f) (hl : s.latch = some l) :
    ∃ t, engineStep s = .next t ∧ engineStep (f s) = .next (f t) := by
  have hl' : (f s).latch = some l := hf.latch.trans hl
  simp only [Machine.engineStep, hl, hl']
  cases decode l.cmd with
  | ok i => exact hf.exec hl i
  | error r => exact ⟨_, rfl, congrArg _ (hf.takeError _ _ s)⟩

end

/-! ### Bytes outside the read sets -/

theorem sampleByte_congr {s t : State} {a : Nat} (hdraw : t.drawIndex = s.drawIndex)
    (hread : Memory.read t.mem a = Memory.read s.mem a) (l : Latch) (c : Fin 3) : sampleByte t l c a = sampleByte s l c a := by
  simp only [sampleByte, bytesHeld, hdraw, hread]

theorem planeMeans_congr {s t : State} {l : Latch} {c : Fin 3} {p : PlaneRegs}
    (h : ∀ a, InReadSet p a → sampleByte t l c a = sampleByte s l c a) : planeMeans t l c p = planeMeans s l c p := by
  refine Vector.ext fun n hn => ?_
  have hbytes : (cellAddrs p (n % 8) (n / 8)).map (fun a => (sampleByte t l c a).toNat) =
      (cellAddrs p (n % 8) (n / 8)).map fun a => (sampleByte s l c a).toNat :=
    List.map_congr_left fun a ha =>
      congrArg BitVec.toNat (h a (exists_mem_cellAddrs_iff.mp ⟨⟨n % 8, by omega⟩, ⟨n / 8, by omega⟩, ha⟩))
  simp only [planeMeans, Vector.getElem_ofFn, cellMean, hbytes]

theorem reducePlane_congr {s t : State} {l : Latch} {c : Fin 3} (hplatform : t.platform = s.platform)
    (h : ∀ a, InReadSet (l.plane c) a → sampleByte t l c a = sampleByte s l c a) : reducePlane t l c = reducePlane s l c := by
  simp only [reducePlane, hplatform]
  rcases hv : validatePlane s.platform l c with e | p
  · rfl
  · obtain ⟨-, rfl⟩ := validatePlane_ok_iff.mp hv
    simp only [planeMeans_congr h]

/-- `s` with sample memory replaced. -/
def State.withMem (m : Memory) (s : State) : State := { s with mem := m }

theorem unseen_withMem {s : State} {l : Latch} {m : Memory}
    (h : ∀ (c : Fin 3) (a : Nat), InReadSet (l.plane c) a → Memory.read m a = Memory.read s.mem a) :
    Unseen s l (State.withMem m) where
  latch := rfl
  bg := rfl
  cg := rfl
  platform := rfl
  reducePlane c := reducePlane_congr rfl fun a ha => sampleByte_congr (s := s) (t := s.withMem m) rfl (h c a ha) l c
  blockGrid _ _ := rfl
  coeffGrid _ _ := rfl
  descriptor _ _ _ := rfl
  zigzag _ _ := rfl
  succeed _ _ _ := rfl
  takeError _ _ _ := rfl

/-- Settles O44: sample memory is read at the addresses of the planes' samples only, and never written. -/
theorem onlySamplesInTheReadSetMatter : Obligations.OnlySamplesInTheReadSetMatter := by
  intro i s l m hl h
  exact (unseen_withMem h).exec hl i

/-! ### The Host and the schedule -/

/-- What the Host and the schedule hold. -/
structure HostSide where
  program  : List HostOp
  reads    : List (BitVec 12 × Word)
  wides    : List (BitVec 12 × BitVec 64)
  schedule : List Turn

/-- `s` with the Host and the schedule replaced. -/
def State.withHostSide (h : HostSide) (s : State) : State :=
  { s with hostProgram := h.program, hostReads := h.reads, hostWides := h.wides, schedule := h.schedule }

theorem unseen_withHostSide (s : State) (l : Latch) (h : HostSide) : Unseen s l (State.withHostSide h) where
  latch := rfl
  bg := rfl
  cg := rfl
  platform := rfl
  reducePlane _ := rfl
  blockGrid _ _ := rfl
  coeffGrid _ _ := rfl
  descriptor _ _ _ := rfl
  zigzag _ _ := rfl
  succeed _ _ _ := rfl
  takeError _ _ _ := rfl

theorem engineStep_withHostSide {s t : State} {l : Latch} (hl : s.latch = some l) (ht : engineStep s = .next t) (h : HostSide) :
    engineStep (s.withHostSide h) = .next (t.withHostSide h) := by
  obtain ⟨u, hu, hu'⟩ := (unseen_withHostSide s l h).engineStep hl
  cases hu.symm.trans ht
  exact hu'

end Sys2Proof.Machine

/-! SUPPORT. Runs of a few steps in which Host accesses and a completion alternate (R217): O11 and O59. -/

namespace Sys2Proof.Machine

/-! ### Steps and runs -/

theorem run_succ_of_step {s t : State} (h : step s = .next t) (k : Nat) :
    Sys2Proof.core.run (k + 1) s = Sys2Proof.core.run k t := by
  have h' : Sys2Proof.core.step s = .next t := h
  simp only [Host.Core.run, h']

theorem run_one (s : State) : Sys2Proof.core.run 1 s = step s := by
  have hrun : Sys2Proof.core.step s = step s := rfl
  cases hs : step s <;> simp only [Host.Core.run, hrun, hs] <;> rfl

theorem engineStep_of_idle {s : State} (hl : s.latch = none) : engineStep s = .next s := by
  simp only [engineStep, hl]

/-- The Host side of `s` with another program and schedule. -/
def State.hostSide (s : State) (p : List HostOp) (sched : List Turn) : HostSide := ⟨p, s.hostReads, s.hostWides, sched⟩

section
variable {p : List HostOp} {rs : List (BitVec 12 × Word)} {ws : List (BitVec 12 × BitVec 64)} {sched : List Turn}

theorem step_host_turn (s : State) :
    step (s.withHostSide ⟨p, rs, ws, .host :: sched⟩) = hostStep (s.withHostSide ⟨p, rs, ws, sched⟩) := rfl

theorem step_engine_turn {s t : State} {l : Latch} (hl : s.latch = some l) (ht : engineStep s = .next t) :
    step (s.withHostSide ⟨p, rs, ws, .engine :: sched⟩) = .next (t.withHostSide ⟨p, rs, ws, sched⟩) :=
  engineStep_withHostSide hl ht ⟨p, rs, ws, sched⟩

theorem step_host_idle {s : State} (hl : s.latch = none) :
    step (s.withHostSide ⟨p, rs, ws, []⟩) = hostStep (s.withHostSide ⟨p, rs, ws, []⟩) := by
  rw [step_of_no_schedule rfl, busy_eq_false_iff.mpr (by exact hl)]
  rfl

/-- A register read adds to the reads, and the value is that of a register, which the Host's side does not reach. -/
theorem hostStep_regRead (s : State) {off : BitVec 12} (ha : off.toNat % 4 = 0) :
    hostStep (s.withHostSide ⟨.regRead off 32 :: p, rs, ws, sched⟩) =
      .next (s.withHostSide ⟨p, (off, regRead s off) :: rs, ws, sched⟩) := by
  rw [hostStep_cons rfl, hostAccess_regRead _ ha]
  rfl

theorem hostStep_regWrite (s : State) {off : BitVec 12} (v : Word) (ha : off.toNat % 4 = 0) :
    hostStep (s.withHostSide ⟨.regWrite off 32 v :: p, rs, ws, sched⟩) =
      .next (regWrite (s.withHostSide ⟨p, rs, ws, sched⟩) off v) := by
  rw [hostStep_cons rfl, hostAccess_regWrite _ v ha]
  rfl

theorem hostStep_join (s : State) (off a b : BitVec 12) (hi lo : Word) :
    hostStep (s.withHostSide ⟨.join off :: p, (a, hi) :: (b, lo) :: rs, ws, sched⟩) =
      .next (s.withHostSide ⟨p, (a, hi) :: (b, lo) :: rs, (off, hi ++ lo) :: ws, sched⟩) := rfl

end

/-! ### One register write and one completion, in either order (R217) -/

theorem issue_schedule (w : Word) (s : State) (sched : List Turn) :
    issue w { s with schedule := sched } = { issue w s with schedule := sched } := by
  obtain hl | ⟨l, hl⟩ := Option.eq_none_or_eq_some s.latch
  · rw [issue_of_idle hl, issue_of_idle (by exact hl)]
    rfl
  · rw [issue_of_busy hl, issue_of_busy (by exact hl)]

theorem regWrite_schedule (s : State) (sched : List Turn) (off : BitVec 12) (v : Word) :
    regWrite { s with schedule := sched } off v = { regWrite s off v with schedule := sched } := by
  simp only [regWrite]
  split
  · rfl
  · split
    · split <;> rfl
    · exact issue_schedule v s sched
    all_goals rfl

/-- The write first: the completion then starts from what the write left. -/
theorem run_host_engine (s : State) {off : BitVec 12} (v : Word) (p : List HostOp) (rest : List Turn) (ha : off.toNat % 4 = 0) :
    Sys2Proof.core.run 2 (s.withHostSide (s.hostSide (.regWrite off 32 v :: p) (.host :: .engine :: rest))) =
      engineStep (regWrite (s.withHostSide (s.hostSide p rest)) off v) := by
  have hwrite : step (s.withHostSide (s.hostSide (.regWrite off 32 v :: p) (.host :: .engine :: rest))) =
      .next { regWrite (s.withHostSide (s.hostSide p rest)) off v with schedule := .engine :: rest } := by
    rw [State.hostSide, step_host_turn, hostStep_regWrite s v ha, ← regWrite_schedule]
    rfl
  rw [run_succ_of_step hwrite, run_one, step_of_turn rfl, turnStep, ← regWrite_schedule]
  rfl

/-- The completion first: it sees nothing of the Host's side, so the write then finds what `engineStep` answers without it. -/
theorem run_engine_host {s t : State} {l : Latch} {off : BitVec 12} (v : Word) (p : List HostOp) (rest : List Turn)
    (ha : off.toNat % 4 = 0) (hl : s.latch = some l) (ht : engineStep s = .next t) :
    Sys2Proof.core.run 2 (s.withHostSide (s.hostSide (.regWrite off 32 v :: p) (.engine :: .host :: rest))) =
      .next (regWrite (t.withHostSide (s.hostSide p rest)) off v) := by
  rw [State.hostSide, run_succ_of_step (step_engine_turn hl ht), run_one, step_host_turn, hostStep_regWrite t v ha]
  rfl

theorem regWrite_softReset (s : State) {v : Word} (hv : v.getLsbD 0 = true) : regWrite s 0x008#12 v = resetDevice s :=
  if_pos hv

theorem regWrite_cmd (s : State) (v : Word) : regWrite s 0x00C#12 v = issue v s := rfl

theorem regWrite_irqStatus (s : State) (v : Word) : regWrite s 0x018#12 v = clearIrq v s := rfl

/-- What a completion leaves in the flags: idle, the overrun flag untouched, and the flag of its kind set (R182, R183, R214). -/
theorem EngineResult.flags {s t : State} {l : Latch} (h : EngineResult s t) (hl : s.latch = some l) :
    t.latch = none ∧ t.irqOverrun = s.irqOverrun ∧ (t.lastCode = 0 → t.irqDone = true) ∧ (t.lastCode ≠ 0 → t.irqErr = true) := by
  cases h with
  | idle hidle => cases hidle.symm.trans hl
  | success ch _ hc =>
    obtain ⟨_, _, _, _, rfl⟩ := hc
    exact ⟨rfl, rfl, fun _ => rfl, fun h => absurd rfl h⟩
  | error e =>
    have hcode : ErrorCode.bits e.code ≠ 0 := by cases e.code <;> decide
    exact ⟨rfl, rfl, fun h => absurd h hcode, fun _ => rfl⟩

/-- After a reset nothing is left of what the Engine did but the model's draw index. -/
theorem EngineResult.resetDevice_withHostSide {s t : State} (h : EngineResult s t) (p : List HostOp) (sched : List Turn) :
    resetDevice (t.withHostSide (s.hostSide p sched)) =
      resetDevice { s with hostProgram := p, schedule := sched, drawIndex := t.drawIndex } := by
  simp only [resetDevice, State.withHostSide, State.hostSide, h.mem, h.platform]

/-- Settles O11: in either order the access finds the state that the rules of acceptance, reset and W1C speak of. -/
theorem bothOrdersOfAccessAndCompletion : Obligations.BothOrdersOfAccessAndCompletion := by
  intro s l rest p v hl
  obtain ⟨t, ht, hresult⟩ := engineStep_engineResult s
  obtain ⟨hidle, hoverrun, -⟩ := hresult.flags hl
  refine ⟨?_, ?_, fun hv => ⟨?_, t.drawIndex, ?_⟩, ?_, ?_⟩
  · obtain ⟨u, hu, hr⟩ := engineStep_engineResult { s with hostProgram := p, schedule := rest, irqOverrun := true }
    obtain ⟨huidle, huoverrun, -⟩ := hr.flags hl
    refine ⟨u, (run_host_engine s v p rest (by decide)).trans ?_, huidle, huoverrun⟩
    rw [regWrite_cmd, issue_of_busy (by exact hl)]
    exact hu
  · refine ⟨_, run_engine_host v p rest (by decide) hl ht, ?_⟩
    rw [regWrite_cmd, issue_of_idle (by exact hidle)]
    exact ⟨⟨_, rfl, rfl⟩, hoverrun⟩
  · refine (run_host_engine s v p rest (by decide)).trans ?_
    rw [regWrite_softReset _ hv, engineStep_of_idle (resetDevice_latch _)]
    rfl
  · refine (run_engine_host v p rest (by decide) hl ht).trans ?_
    rw [regWrite_softReset _ hv, hresult.resetDevice_withHostSide]
  · obtain ⟨u, hu, hr⟩ := engineStep_engineResult (clearIrq v (s.withHostSide (s.hostSide p rest)))
    obtain ⟨-, -, hflags⟩ := hr.flags hl
    exact ⟨u, (run_host_engine s v p rest (by decide)).trans hu, hflags⟩
  · refine ⟨_, run_engine_host v p rest (by decide) hl ht, fun hv => ?_, fun hv => ?_⟩
    · rw [regWrite_irqStatus, clearIrq_irqDone, hv, Bool.not_true, Bool.and_false]
    · rw [regWrite_irqStatus, clearIrq_irqErr, hv, Bool.not_true, Bool.and_false]

/-! ### RD64 (R100, R262) -/

theorem aligned_add_four {off : BitVec 12} (ha : off.toNat % 4 = 0) : (off + 4#12).toNat % 4 = 0 := by
  rw [BitVec.toNat_add]
  change (off.toNat + 4) % 4096 % 4 = 0
  omega

theorem hostAccesses_rd64 {off : BitVec 12} (h : off.toNat + 4 < 4096) :
    hostAccesses [.rd64 off] = [.regRead off 32, .regRead (off + 4#12) 32, .join off] := by
  simp [hostAccesses, HostLine.expand, highWordRead_of_lt h]

/-- What RD64 leaves on the Host's side of `s` when it has read `lo` and `hi`. -/
def State.rd64Side (s : State) (off : BitVec 12) (lo hi : Word) : HostSide where
  program := []
  reads := (off + 4#12, hi) :: (off, lo) :: s.hostReads
  wides := (off, hi ++ lo) :: s.hostWides
  schedule := []

theorem run_rd64_idle {s : State} {off : BitVec 12} (ha : off.toNat % 4 = 0) (hlt : off.toNat + 4 < 4096)
    (hl : s.latch = none) :
    Sys2Proof.core.run 3 (s.withHostSide (s.hostSide (hostAccesses [.rd64 off]) [])) =
      .next (s.withHostSide (s.rd64Side off (regRead s off) (regRead s (off + 4#12)))) := by
  rw [hostAccesses_rd64 hlt, State.hostSide, run_succ_of_step ((step_host_idle hl).trans (hostStep_regRead s ha)),
    run_succ_of_step ((step_host_idle hl).trans (hostStep_regRead s (aligned_add_four ha))), run_one, step_host_idle hl,
    hostStep_join]
  rfl

/-- The completion comes after the low word was read from `s`, so the high word is that of `t` (R262). -/
theorem run_rd64_torn {s t : State} {l : Latch} {off : BitVec 12} (ha : off.toNat % 4 = 0) (hlt : off.toNat + 4 < 4096)
    (hl : s.latch = some l) (ht : engineStep s = .next t) :
    Sys2Proof.core.run 4 (s.withHostSide (s.hostSide (hostAccesses [.rd64 off]) [.host, .engine, .host, .host])) =
      .next (t.withHostSide (s.rd64Side off (regRead s off) (regRead t (off + 4#12)))) := by
  rw [hostAccesses_rd64 hlt, State.hostSide, run_succ_of_step ((step_host_turn _).trans (hostStep_regRead s ha)),
    run_succ_of_step (step_engine_turn hl ht),
    run_succ_of_step ((step_host_turn _).trans (hostStep_regRead t (aligned_add_four ha))), run_one, step_host_turn,
    hostStep_join]
  rfl

/-- At the last word the second read is outside the register space (log 19). -/
theorem run_rd64_last {s : State} (hl : s.latch = none) :
    Sys2Proof.core.run 2 (s.withHostSide (s.hostSide (hostAccesses [.rd64 0xFFC#12]) [])) =
      .fault (.registerOutside 0x1000) := by
  change Sys2Proof.core.run 2 (s.withHostSide ⟨[.regRead 0xFFC#12 32, .readBeyond 0x1000, .join 0xFFC#12], _, _, []⟩) = _
  rw [run_succ_of_step ((step_host_idle hl).trans (hostStep_regRead s (by decide))), run_one, step_host_idle hl]
  rfl

/-- With no schedule left, replacing the Host's side by its own with another program replaces the program alone. -/
theorem withHostSide_hostSide_of_no_schedule {s : State} (hs : s.schedule = []) (p : List HostOp) :
    s.withHostSide (s.hostSide p []) = { s with hostProgram := p } := by
  rw [State.withHostSide, State.hostSide, hs]

/-- Settles O59: three Host steps, with the completion, which sees nothing of the Host's side, after the first or not at all. -/
theorem rd64ReadsTwoWordsAndJoinsThem : Obligations.Rd64ReadsTwoWordsAndJoinsThem := by
  intro s off ha
  refine ⟨fun hlt => ⟨fun hl hs => ?_, fun l hl => ?_⟩, ?_⟩
  · rw [← withHostSide_hostSide_of_no_schedule hs]
    refine (run_rd64_idle ha hlt hl).trans ?_
    rw [State.withHostSide, State.rd64Side, hs]
  · obtain ⟨t, ht, -⟩ := engineStep_engineResult s
    exact ⟨t, _, ht, run_rd64_torn (s := s) ha hlt hl ht, rfl⟩
  · rintro rfl hl hs
    rw [← withHostSide_hostSide_of_no_schedule hs]
    exact run_rd64_last hl

end Sys2Proof.Machine

/-! SUPPORT. Command words and their fields (R91, R92): the row a word is decoded by, `decode` and `encode` as inverses, the row
masks of R94, and `Decode` on the word as a number (R95); O1 to O5. -/

namespace Sys2Proof.Machine

/-! ### A word is its fields -/

theorem append_fields_F0 (w : Word) : w.extractLsb' 8 24 ++ opField w = w := by
  rw [opField, BitVec.extractLsb'_append_extractLsb'_eq_extractLsb' (by rfl), BitVec.extractLsb'_eq_self]

theorem append_fields_FC (w : Word) : w.extractLsb' 10 22 ++ chField w ++ opField w = w := by
  rw [chField, BitVec.extractLsb'_append_extractLsb'_eq_extractLsb' (by rfl), append_fields_F0]

theorem append_fields_FM (w : Word) : w.extractLsb' 20 12 ++ mField w ++ w.extractLsb' 8 8 ++ opField w = w := by
  rw [mField, BitVec.extractLsb'_append_extractLsb'_eq_extractLsb' (by rfl),
    BitVec.extractLsb'_append_extractLsb'_eq_extractLsb' (by rfl), append_fields_F0]

/-! ### The row that decodes a word -/

/-- What `decode` does with `w`: one arm per row of the opcode map (R94), and one for the reserved opcodes. -/
inductive DecodeRow (w : Word) : Prop
  | nop      : opField w = 0x00#8 → decode w = decodeF0 .nop w → DecodeRow w
  | reduce   : opField w = 0x01#8 → decode w = decodeFC .reduce w → DecodeRow w
  | dct      : opField w = 0x02#8 → decode w = decodeF0 .dct w → DecodeRow w
  | reorder  : opField w = 0x03#8 → decode w = decodeFC .reorder w → DecodeRow w
  | runCh    : opField w = 0x04#8 → decode w = decodeFC .runCh w → DecodeRow w
  | runFrame : opField w = 0x05#8 → decode w = decodeF0 .runFrame w → DecodeRow w
  | zzgen    : opField w = 0x06#8 → decode w = decodeFM .zzgen w → DecodeRow w
  | reserved : 0x06#8 < opField w → decode w = .error (.reservedOpcode (opField w)) → DecodeRow w

theorem decodeRow (w : Word) : DecodeRow w := by
  have hd := decode.eq_def w
  split_ifs at hd with h0 h1 h2 h3 h4 h5 h6
  · exact .nop h0 hd
  · exact .reduce h1 hd
  · exact .dct h2 hd
  · exact .reorder h3 hd
  · exact .runCh h4 hd
  · exact .runFrame h5 hd
  · exact .zzgen h6 hd
  · exact .reserved (by bv_omega) hd

/-! ### Encoding and decoding are inverse -/

/-- A format answers its command only where its reserved bits are clear. -/
theorem of_format_eq_ok {clear : Prop} [Decidable clear] {i j : Instr} {r : DecodeReject}
    (h : (if clear then .ok i else .error r : Except DecodeReject Instr) = .ok j) : clear ∧ i = j := by
  split at h
  case isTrue hclear => exact ⟨hclear, Except.ok.inj h⟩
  case isFalse => cases h

theorem encode_of_decodeF0 {w : Word} {i j : Instr} (henc : encode i = 0#24 ++ opField w) (h : decodeF0 i w = .ok j) :
    encode j = w := by
  obtain ⟨hclear, rfl⟩ := of_format_eq_ok h
  rw [henc, ← hclear, append_fields_F0]

theorem encode_of_decodeFC {w : Word} {mk : BitVec 2 → Instr} {j : Instr}
    (henc : encode (mk (chField w)) = 0#22 ++ chField w ++ opField w) (h : decodeFC mk w = .ok j) : encode j = w := by
  obtain ⟨hclear, rfl⟩ := of_format_eq_ok h
  rw [henc, ← hclear, append_fields_FC]

theorem encode_of_decodeFM {w : Word} {mk : BitVec 4 → Instr} {j : Instr}
    (henc : encode (mk (mField w)) = 0#12 ++ mField w ++ 0#8 ++ opField w) (h : decodeFM mk w = .ok j) : encode j = w := by
  obtain ⟨⟨hlow, hhigh⟩, rfl⟩ := of_format_eq_ok h
  rw [henc, ← hlow, ← hhigh, append_fields_FM]

/-- Settles O3: the row's opcode and reserved bits are those of the encoding, so with its operand they make up the whole word. -/
theorem encodeOfDecode : Obligations.EncodeOfDecode := by
  intro w i h
  cases decodeRow w with
  | nop hop hd | dct hop hd | runFrame hop hd => exact encode_of_decodeF0 (by rw [hop]; rfl) (hd.symm.trans h)
  | reduce hop hd | reorder hop hd | runCh hop hd => exact encode_of_decodeFC (by rw [hop]; rfl) (hd.symm.trans h)
  | zzgen hop hd => exact encode_of_decodeFM (by rw [hop]; rfl) (hd.symm.trans h)
  | reserved _ hd => cases hd.symm.trans h

theorem decode_encode (i : Instr) : decode (encode i) = .ok i := by
  cases i with
  | nop | dct | runFrame => rfl
  | reduce ch | reorder ch | runCh ch => revert ch; decide
  | zzgen m => revert m; decide

theorem decode_eq_ok_iff {w : Word} {i : Instr} : decode w = .ok i ↔ encode i = w :=
  ⟨encodeOfDecode w i, fun h => h ▸ decode_encode i⟩

theorem checkOperands_eq_ok_iff {i : Instr} : checkOperands i = .ok () ↔ i.WellFormed := by
  cases i with
  | nop | dct | runFrame => exact iff_of_true rfl rfl
  | reduce ch | reorder ch | runCh ch => revert ch; decide
  | zzgen m => revert m; decide

theorem decodeCommand_of_reject {w : Word} {r : DecodeReject} (hd : decode w = .error r) :
    decodeCommand w = .error ⟨.illegalCmd, 0#2⟩ := by
  simp only [decodeCommand, hd]

theorem decodeCommand_of_ok {w : Word} {i : Instr} (hd : decode w = .ok i) :
    decodeCommand w = (checkOperands i).map fun _ => i := by
  rw [decodeCommand, hd]
  cases h : checkOperands i <;> simp only [h] <;> rfl

/-- Settles O2: the encoding of a command decodes to it, and the operand check passes it exactly when it is well formed. -/
theorem decodeOfEncode : Obligations.DecodeOfEncode := by
  refine ⟨decode_encode, fun i => ?_⟩
  rw [decodeCommand_of_ok (decode_encode i), ← checkOperands_eq_ok_iff]
  cases checkOperands i with
  | ok => exact iff_of_true rfl rfl
  | error e => exact iff_of_false (by rintro ⟨⟩) (by rintro ⟨⟩)

/-- Settles O1: the eight words are the encodings of their commands. -/
theorem workedWordsDecode : Obligations.WorkedWordsDecode :=
  ⟨decode_encode .nop, decode_encode (.reduce 1#2), decode_encode .dct, decode_encode (.reorder 2#2), decode_encode (.runCh 2#2),
    decode_encode .runFrame, decode_encode (.zzgen 3#4), decode_encode (.zzgen 8#4), rfl, rfl, rfl, rfl⟩

/-! ### The masks of the rows (R94) -/

theorem encode_and_rowMask (i : Instr) : encode i &&& Laws.RowBits.rowMask i = Laws.RowBits.rowMatch i := by
  cases i with
  | nop => exact Laws.RowBits.nop
  | reduce ch => exact Laws.RowBits.reduce ch
  | dct => exact Laws.RowBits.dct
  | reorder ch => exact Laws.RowBits.reorder ch
  | runCh ch => exact Laws.RowBits.runCh ch
  | runFrame => exact Laws.RowBits.runFrame
  | zzgen m => exact Laws.RowBits.zzgen m

/-- A field that the mask has whole is that of the match value. -/
theorem extractLsb'_of_and_eq {w mask m : Word} (h : w &&& mask = m) (start : Nat) {len : Nat}
    (hmask : mask.extractLsb' start len = BitVec.allOnes len) : w.extractLsb' start len = m.extractLsb' start len := by
  rw [← h, BitVec.extractLsb'_and, hmask, BitVec.and_allOnes]

/-- Above bit 7 a match value is 0 (R94). -/
theorem extractLsb'_match_eq_zero {op : BitVec 8} {start : Nat} (h : 8 ≤ start) (len : Nat) :
    (0#24 ++ op).extractLsb' start len = 0#len :=
  (BitVec.extractLsb'_append_eq_of_le h).trans BitVec.extractLsb'_zero

theorem append_fields_of_and_maskFC {w : Word} {op : BitVec 8} (h : w &&& 0xFFFFFCFF#32 = 0#24 ++ op) :
    0#22 ++ chField w ++ op = w := by
  have hres : w.extractLsb' 10 22 = 0#22 := (extractLsb'_of_and_eq h 10 (by rfl)).trans (extractLsb'_match_eq_zero (by decide) 22)
  have hop : opField w = op := (extractLsb'_of_and_eq h 0 (by rfl)).trans BitVec.extractLsb'_append_eq_right
  rw [← hres, ← hop, append_fields_FC]

theorem append_fields_of_and_maskFM {w : Word} {op : BitVec 8} (h : w &&& 0xFFF0FFFF#32 = 0#24 ++ op) :
    0#12 ++ mField w ++ 0#8 ++ op = w := by
  have hhigh : w.extractLsb' 20 12 = 0#12 := (extractLsb'_of_and_eq h 20 (by rfl)).trans (extractLsb'_match_eq_zero (by decide) 12)
  have hlow : w.extractLsb' 8 8 = 0#8 := (extractLsb'_of_and_eq h 8 (by rfl)).trans (extractLsb'_match_eq_zero (by decide) 8)
  have hop : opField w = op := (extractLsb'_of_and_eq h 0 (by rfl)).trans BitVec.extractLsb'_append_eq_right
  rw [← hhigh, ← hlow, ← hop, append_fields_FM]

/-- `i` being the command of its row with the operand bits of `w`: the word selects the row if the mask's bits make it `encode i`. -/
theorem decode_eq_ok_iff_and_rowMask {w : Word} {i : Instr}
    (h : w &&& Laws.RowBits.rowMask i = Laws.RowBits.rowMatch i → encode i = w) :
    decode w = .ok i ↔ w &&& Laws.RowBits.rowMask i = Laws.RowBits.rowMatch i :=
  decode_eq_ok_iff.trans ⟨fun hw => hw ▸ encode_and_rowMask i, h⟩

/-- Settles O5: the mask drops the operand bits alone, and those are the word's own. -/
theorem wordSelectsItsRow : Obligations.WordSelectsItsRow := fun _ =>
  ⟨decode_eq_ok_iff_and_rowMask fun h => h.symm.trans BitVec.and_allOnes,
    decode_eq_ok_iff_and_rowMask fun h => append_fields_of_and_maskFC (op := 0x01#8) h,
    decode_eq_ok_iff_and_rowMask fun h => h.symm.trans BitVec.and_allOnes,
    decode_eq_ok_iff_and_rowMask fun h => append_fields_of_and_maskFC (op := 0x03#8) h,
    decode_eq_ok_iff_and_rowMask fun h => append_fields_of_and_maskFC (op := 0x04#8) h,
    decode_eq_ok_iff_and_rowMask fun h => h.symm.trans BitVec.and_allOnes,
    decode_eq_ok_iff_and_rowMask fun h => append_fields_of_and_maskFM (op := 0x06#8) h⟩

/-! ### `Decode` on the word as a number (R95) -/

theorem opField_toNat (w : Word) : (opField w).toNat = w.toNat % 256 := by
  rw [opField, BitVec.extractLsb'_toNat, Nat.shiftRight_zero]

theorem chField_toNat (w : Word) : (chField w).toNat = w.toNat / 2 ^ 8 % 4 := by
  rw [chField, BitVec.extractLsb'_toNat, Nat.shiftRight_eq_div_pow]

theorem mField_toNat (w : Word) : (mField w).toNat = w.toNat / 2 ^ 16 % 16 := by
  rw [mField, BitVec.extractLsb'_toNat, Nat.shiftRight_eq_div_pow]

theorem extractLsb'_eq_zero_iff {w : Word} {start len : Nat} :
    w.extractLsb' start len = 0#len ↔ w.toNat / 2 ^ start % 2 ^ len = 0 := by
  rw [← BitVec.toNat_inj, BitVec.extractLsb'_toNat, Nat.shiftRight_eq_div_pow, BitVec.toNat_zero]

/-- The remainder is not needed for a field that reaches up to bit 31. -/
theorem extractLsb'_high_eq_zero_iff {w : Word} {start len : Nat} (h : start + len = 32) :
    w.extractLsb' start len = 0#len ↔ w.toNat / 2 ^ start = 0 := by
  have hlt : w.toNat < 2 ^ start * 2 ^ len := by
    rw [← pow_add, h]
    exact w.isLt
  rw [extractLsb'_eq_zero_iff, Nat.mod_eq_of_lt (Nat.div_lt_of_lt_mul hlt)]

/-- A row's format answers its command or rejects the word's reserved bits; `reserved` says the latter on the word as a number. -/
theorem decodeCommand_of_format {w : Word} {i : Instr} {r : DecodeReject} {clear reserved : Prop} [Decidable clear]
    [Decidable reserved] (hreserved : reserved ↔ ¬clear) (hd : decode w = if clear then .ok i else .error r) :
    decodeCommand w = if reserved then .error ⟨.illegalCmd, 0#2⟩ else (checkOperands i).map fun _ => i := by
  by_cases hclear : clear
  · rw [if_pos hclear] at hd
    rw [if_neg (not_not_intro hclear ∘ hreserved.mp), decodeCommand_of_ok hd]
  · rw [if_neg hclear] at hd
    rw [if_pos (hreserved.mpr hclear), decodeCommand_of_reject hd]

theorem decodeCommand_of_F0 {w : Word} {i : Instr} (hd : decode w = decodeF0 i w) :
    decodeCommand w = if w.toNat / 2 ^ 8 ≠ 0 then .error ⟨.illegalCmd, 0#2⟩ else (checkOperands i).map fun _ => i :=
  decodeCommand_of_format (extractLsb'_high_eq_zero_iff (by rfl)).not.symm hd

theorem decodeCommand_of_FC {w : Word} {mk : BitVec 2 → Instr} (hd : decode w = decodeFC mk w) :
    decodeCommand w =
      if w.toNat / 2 ^ 10 ≠ 0 then .error ⟨.illegalCmd, 0#2⟩
      else (checkOperands (mk (chField w))).map fun _ => mk (chField w) :=
  decodeCommand_of_format (extractLsb'_high_eq_zero_iff (by rfl)).not.symm hd

theorem decodeCommand_of_FM {w : Word} {mk : BitVec 4 → Instr} (hd : decode w = decodeFM mk w) :
    decodeCommand w =
      if w.toNat / 2 ^ 8 % 2 ^ 8 ≠ 0 ∨ w.toNat / 2 ^ 20 ≠ 0 then .error ⟨.illegalCmd, 0#2⟩
      else (checkOperands (mk (mField w))).map fun _ => mk (mField w) :=
  decodeCommand_of_format (by rw [extractLsb'_eq_zero_iff, extractLsb'_high_eq_zero_iff (by rfl), not_and_or]) hd

/-- R95's check of a channel, for a command that has one. -/
theorem map_channelOperand (ch : BitVec 2) (i : Instr) :
    (((channelOperand ch).map fun _ => ()).map fun _ => i) =
      if 3 ≤ ch.toNat then .error ⟨.badChannel, ch⟩ else .ok i := by
  split
  · rw [channelOperand, dif_neg (by omega)]
    rfl
  · rw [channelOperand_of_lt (by omega)]
    rfl

/-- R95's check of a size. -/
theorem map_sizeOperand (m : BitVec 4) (i : Instr) :
    (((sizeOperand m).map fun _ => ()).map fun _ => i) =
      if m.toNat = 0 ∨ 8 < m.toNat then .error ⟨.badParam, 0#2⟩ else .ok i := by
  have hok : sizeOk m = true ↔ ¬(m.toNat = 0 ∨ 8 < m.toNat) := by
    rw [sizeOk, Bool.and_eq_true, decide_eq_true_eq, decide_eq_true_eq, Config.zzgenMaxM]
    omega
  split
  case isTrue h =>
    rw [sizeOperand_of_not_ok (Bool.eq_false_iff.mpr fun hm => hok.mp hm h)]
    rfl
  case isFalse h =>
    rw [sizeOperand_of_ok (hok.mpr h)]
    rfl

/-- Settles O4: on the row of the opcode, the reserved bits and then the operand are checked as the pseudocode has it. -/
theorem decodeFollowsItsPseudocode : Obligations.DecodeFollowsItsPseudocode := by
  intro w
  simp only [← opField_toNat, ← chField_toNat, ← mField_toNat, BitVec.ofNat_toNat, BitVec.setWidth_eq]
  cases decodeRow w with
  | nop hop hd | dct hop hd | runFrame hop hd =>
    rw [decodeCommand_of_F0 hd, hop]
    rfl
  | reduce hop hd | reorder hop hd | runCh hop hd =>
    rw [decodeCommand_of_FC hd, checkOperands, map_channelOperand, hop]
    rfl
  | zzgen hop hd =>
    rw [decodeCommand_of_FM hd, checkOperands, map_sizeOperand, hop]
    rfl
  | reserved hop hd =>
    have hop : 6 < (opField w).toNat := hop
    rw [decodeCommand_of_reject hd, if_neg (by omega), if_neg (by omega), if_neg (by omega)]
    rfl

end Sys2Proof.Machine

/-! SUPPORT. A decoded word in the Engine: `Decode`'s errors end in error completions (O7, O17), and ISSUE followed by WAIT runs a
command (O12). -/

namespace Sys2Proof.Machine

/-! ### Errors of `Decode` (R95, R96, R215) -/

theorem map_eq_error_iff {α β : Type} {f : α → β} {x : Except CmdError α} {e : CmdError} :
    x.map f = .error e ↔ x = .error e := by
  cases x <;> simp [Except.map]

/-- A command whose operand check fails completes with that error, before it looks at anything else (R95, R216). -/
theorem exec_of_checkOperands_error {s : State} {l : Latch} {i : Instr} {e : CmdError} (hl : s.latch = some l)
    (hi : checkOperands i = .error e) : exec i s = .next (takeError l.cmd e s) := by
  cases i with
  | nop | dct | runFrame => cases hi
  | reduce ch | reorder ch | runCh ch | zzgen m =>
    exact complete_of_error hl (by rw [map_eq_error_iff.mp hi]; rfl)

theorem engineStep_of_reject {s : State} {l : Latch} {r : DecodeReject} (hl : s.latch = some l) (hd : decode l.cmd = .error r) :
    engineStep s = .next (takeError l.cmd ⟨.illegalCmd, 0#2⟩ s) := by
  simp only [engineStep, hl, hd]

theorem engineStep_of_decode {s : State} {l : Latch} {i : Instr} (hl : s.latch = some l) (hd : decode l.cmd = .ok i) :
    engineStep s = exec i s := by
  simp only [engineStep, hl, hd]

/-- Settles O7: a word of no row is ILLEGAL_CMD in the Engine's step; an operand out of range is found by the command itself. -/
theorem badWordsEndInErrorCompletion : Obligations.BadWordsEndInErrorCompletion := by
  intro s l e hl he
  rw [← takeError_eq_errorState]
  rcases hd : decode l.cmd with r | i
  · rw [decodeCommand_of_reject hd] at he
    cases he
    exact engineStep_of_reject hl hd
  · rw [decodeCommand_of_ok hd, map_eq_error_iff] at he
    rw [engineStep_of_decode hl hd, exec_of_checkOperands_error hl he]

/-- Settles O17: the operand check comes before all else that the four commands look at. -/
theorem operandOutOfRangeIsReportedFirst : Obligations.OperandOutOfRangeIsReportedFirst := by
  intro s l hl
  have hchannel {i : Instr} (hi : checkOperands i = .error ⟨.badChannel, 3#2⟩) :
      exec i s = .next (errorState s l.cmd 2#4 3#2) := exec_of_checkOperands_error hl hi
  have hsize (m : BitVec 4) (hm : m.toNat = 0 ∨ 8 < m.toNat) : checkOperands (.zzgen m) = .error ⟨.badParam, 0#2⟩ := by
    revert m
    decide
  exact ⟨hchannel rfl, hchannel rfl, hchannel rfl, fun m hm => exec_of_checkOperands_error hl (hsize m hm)⟩

/-! ### ISSUE and WAIT (R100) -/

theorem step_of_idle {s : State} (hl : s.latch = none) (hs : s.schedule = []) : step s = hostStep s := by
  rw [step_of_no_schedule hs, busy_eq_false_iff.mpr hl]
  rfl

/-- With the schedule used up and live sample memory, the Engine moves and runs the command in flight (R182, R270). -/
theorem step_of_exec {s t : State} {l : Latch} {i : Instr} (ht : exec i s = .next t) (hl : s.latch = some l)
    (hd : decode l.cmd = .ok i) (hs : s.schedule = []) (hlive : s.platform.sampleMemLive = true) : step s = .next t := by
  rw [step_of_no_schedule hs, busy_eq_true_iff.mpr ⟨l, hl⟩, hlive, Bool.and_self, if_pos rfl, engineStep_of_decode hl hd, ht]

/-- However the Engine completes, it leaves an idle machine, and the Host's program and the schedule as they were. -/
theorem EngineResult.idle_and_hostSide {s t : State} (h : EngineResult s t) :
    t.latch = none ∧ t.hostProgram = s.hostProgram ∧ t.schedule = s.schedule := by
  cases h with
  | idle hl => exact ⟨hl, rfl, rfl⟩
  | success ch _ hc =>
    obtain ⟨_, _, _, _, rfl⟩ := hc
    exact ⟨rfl, rfl, rfl⟩
  | error => exact ⟨rfl, rfl, rfl⟩

/-- BUSY is bit 0 of STATUS (R27). -/
theorem statusWord_and_one_of_idle {s : State} (hl : s.latch = none) : statusWord s &&& 0x1#32 = 0x0#32 := by
  rw [statusWord, busy_eq_false_iff.mpr hl]
  exact (BitVec.and_append (x₂ := 0#31) (y₂ := 1#1)).trans (by simp)

theorem hostAccess_poll_of_eq {s : State} {off : BitVec 12} {mask val : Word} (ha : off.toNat % 4 = 0)
    (h : regRead s off &&& mask = val) : hostAccess (.poll off mask val) s = .next s := by
  rw [hostAccess, registerAccess_of_legal ha, if_pos h]

theorem step_issue {s : State} {i : Instr} {p : List HostOp} (hl : s.latch = none) (hs : s.schedule = [])
    (hp : s.hostProgram = HostLine.expand (.issue i) ++ p) :
    step s = .next { s with latch := some (captureLatch (encode i) s), hostProgram := p } := by
  rw [step_of_idle hl hs, hostStep_cons (rest := p) hp, hostAccess_regWrite _ _ (by decide), regWrite_cmd,
    issue_of_idle (by exact hl)]
  rfl

theorem step_wait {s : State} {p : List HostOp} (hl : s.latch = none) (hs : s.schedule = [])
    (hp : s.hostProgram = HostLine.expand .wait ++ p) : step s = .next { s with hostProgram := p } := by
  rw [step_of_idle hl hs, hostStep_cons (rest := p) hp]
  exact hostAccess_poll_of_eq (by decide) (statusWord_and_one_of_idle hl)

/-- Settles O12: the command write, the completion, which leaves the Host's program alone, and a poll that finds the machine idle. -/
theorem issueThenWaitRunsTheCommand : Obligations.IssueThenWaitRunsTheCommand := by
  intro s i hl hs hlive
  obtain ⟨t, ht, hresult⟩ := exec_engineResult i
    { s with latch := some (captureLatch (encode i) s), hostProgram := HostLine.expand .wait }
  obtain ⟨hidle, hprogram, hschedule⟩ := hresult.idle_and_hostSide
  have hissue := step_issue (s := { s with hostProgram := hostAccesses [.issue i, .wait] }) hl hs rfl
  have hcomplete := step_of_exec ht rfl (decode_encode i) hs hlive
  have hwait : step t = .next { t with hostProgram := [] } := step_wait hidle (hschedule.trans hs) hprogram
  exact ⟨t, ht, (run_succ_of_step hissue 2).trans ((run_succ_of_step hcomplete 1).trans ((run_one t).trans hwait))⟩

end Sys2Proof.Machine

/-! SUPPORT. The Block Reducer: the partition of a dimension into eight cells (R121, R122), the number and the sum of a cell's
samples (R124, R127, R128), and `ReducePlane` on a plane that passes R123 and on one that fails it; O51 to O53, O14 and O15. -/

namespace Sys2Proof.Machine

/-! ### The edges of the cells -/

/-- Settles O51: half an eighth is 4 eighths, which `edge` adds before it divides. -/
theorem edgeRoundsHalfUp : Obligations.EdgeRoundsHalfUp := by
  intro e d
  have hhalf : (e : Rat) * d / 8 + 1 / 2 = ((e * d + 4 : Nat) : Rat) / (8 : Nat) := by
    push_cast
    ring
  rw [round_eq, hhalf, Rat.floor_natCast_div_natCast, edge, Int.natCast_div]

/-- Neighbouring edges are floor(d/8) apart, or one more. -/
theorem edge_succ_bounds (e d : Nat) : edge e d + d / 8 ≤ edge (e + 1) d ∧ edge (e + 1) d ≤ edge e d + d / 8 + 1 := by
  unfold edge
  rw [Nat.succ_mul]
  omega

theorem le_of_mem_cellRange {i i' d x : Nat} (h : x ∈ cellRange i d) (h' : x ∈ cellRange i' d) : i ≤ i' := by
  by_contra hlt
  have hedge : edge (i' + 1) d ≤ edge i d := edge_mono (by omega) d
  have hx := (mem_cellRange.mp h).1
  have hx' := (mem_cellRange.mp h').2
  omega

theorem existsUnique_cell {d x : Nat} (hx : x < d) : ∃! e, e < 8 ∧ edge e d ≤ x ∧ x < edge (e + 1) d := by
  obtain ⟨i, hi⟩ := exists_mem_cellRange_iff.mpr hx
  refine ⟨i, ⟨i.isLt, mem_cellRange.mp hi⟩, fun e he => ?_⟩
  have he' := mem_cellRange.mpr he.2
  exact le_antisymm (le_of_mem_cellRange he' hi) (le_of_mem_cellRange hi he')

/-- Eight cells with a coordinate each need eight coordinates; from eight on, every cell is at least floor(d/8) wide. -/
theorem eight_le_iff_no_empty_cell {d : Nat} : 8 ≤ d ↔ ∀ e, e < 8 → edge e d < edge (e + 1) d := by
  constructor
  · intro hd e _
    have hwidth := (edge_succ_bounds e d).1
    omega
  · intro hcells
    have hedge : ∀ e ≤ 8, e ≤ edge e d := fun e => by
      induction e with
      | zero => exact fun _ => Nat.zero_le _
      | succ e ih => exact fun he => (ih (by omega)).trans_lt (hcells e he)
    exact edge_eight d ▸ hedge 8 le_rfl

/-- Settles O52: the edges never fall, which leaves a coordinate one cell, and rise by floor(d/8) or one more. -/
theorem cellsPartitionThePlane : Obligations.CellsPartitionThePlane := fun d =>
  ⟨by simp [edge], edge_eight d, fun e => edge_mono e.le_succ d, fun _ => existsUnique_cell,
    fun e => by have hwidth := edge_succ_bounds e d; omega, eight_le_iff_no_empty_cell⟩

/-! ### The samples of a cell -/

@[simp] theorem length_cellRange (i d : Nat) : (cellRange i d).length = edge (i + 1) d - edge i d := List.length_range'

theorem length_cellAddrs (p : PlaneRegs) (i j : Nat) :
    (cellAddrs p i j).length = (cellRange j p.height.toNat).length * (cellRange i p.width.toNat).length := by
  simp [cellAddrs, List.length_flatMap]

/-- No cell of a 16-bit dimension is wider than 2^13. -/
theorem length_cellRange_le (i : Nat) (d : BitVec 16) : (cellRange i d.toNat).length ≤ 2 ^ 13 := by
  have hwidth := (edge_succ_bounds i d.toNat).2
  rw [length_cellRange]
  omega

theorem length_cellAddrs_le (p : PlaneRegs) (i j : Nat) : (cellAddrs p i j).length ≤ 2 ^ 26 := by
  rw [length_cellAddrs, show 2 ^ 26 = 2 ^ 13 * 2 ^ 13 from rfl]
  exact Nat.mul_le_mul (length_cellRange_le j p.height) (length_cellRange_le i p.width)

theorem length_cellRange_pos {d : Nat} (hd : 8 ≤ d) (i : Fin 8) : 0 < (cellRange i d).length := by
  rw [length_cellRange]
  exact Nat.sub_pos_of_lt (eight_le_iff_no_empty_cell.mp hd i i.isLt)

theorem length_cellAddrs_pos {p : PlaneRegs} (hw : 8 ≤ p.width.toNat) (hh : 8 ≤ p.height.toNat) (i j : Fin 8) :
    0 < (cellAddrs p i j).length := by
  rw [length_cellAddrs]
  exact Nat.mul_pos (length_cellRange_pos hh j) (length_cellRange_pos hw i)

/-- Bytes sum to at most 255 each. -/
theorem sum_samples_le (s : State) (l : Latch) (c : Fin 3) (as : List Nat) :
    (as.map fun a => (sampleByte s l c a).toNat).sum ≤ as.length * 255 := by
  have hbytes : ∀ n ∈ as.map fun a => (sampleByte s l c a).toNat, n ≤ 255 :=
    List.forall_mem_map.mpr fun a _ => Nat.le_of_lt_succ (sampleByte s l c a).isLt
  simpa using List.sum_le_card_nsmul _ _ hbytes

/-- Samples that are all `v` have mean `v`, wherever a cell has samples. -/
theorem cellMean_of_constant {s : State} {l : Latch} {c : Fin 3} {p : PlaneRegs} {i j : Nat} {v : Byte}
    (hpos : 0 < (cellAddrs p i j).length) (h : ∀ a ∈ cellAddrs p i j, sampleByte s l c a = v) :
    cellMean s l c p i j = v.toNat := by
  have hsum : ((cellAddrs p i j).map fun a => (sampleByte s l c a).toNat).sum = (cellAddrs p i j).length * v.toNat := by
    rw [List.sum_eq_card_nsmul _ v.toNat (List.forall_mem_map.mpr fun a ha => congrArg _ (h a ha)), List.length_map, smul_eq_mul]
  rw [cellMean, hsum, Nat.mul_div_cancel_left _ hpos]

/-- Settles O53: a cell is at most 2^13 wide and high and its samples are bytes; where it has a sample the mean is a floor. -/
theorem cellMeanNeedsNoWideArithmetic : Obligations.CellMeanNeedsNoWideArithmetic := by
  intro s l c p i j cnt sum
  have hcnt : cnt ≤ 2 ^ 26 := length_cellAddrs_le p i j
  have hsum : sum ≤ cnt * 255 := sum_samples_le s l c _
  refine ⟨hcnt, by omega, fun hw hh => ?_⟩
  have hpos : 0 < cnt := length_cellAddrs_pos hw hh i j
  exact ⟨hpos, cellMean_le .., fun q => Nat.le_div_iff_mul_le hpos, fun v => cellMean_of_constant hpos⟩

/-! ### The grid of means -/

/-- The samples of a cell, summed over its coordinates (R124). -/
theorem sum_cellAddrs (p : PlaneRegs) (i j : Nat) (f : Nat → Nat) :
    ((cellAddrs p i j).map f).sum =
      ∑ y ∈ Finset.Ico (edge j p.height.toNat) (edge (j + 1) p.height.toNat),
        ∑ x ∈ Finset.Ico (edge i p.width.toNat) (edge (i + 1) p.width.toNat), f (sampleAddr p x y) := by
  rw [cellAddrs, List.map_flatMap, List.flatMap_def, List.sum_flatten, List.map_map]
  simp only [Function.comp_def, List.map_map]
  rfl

theorem planeMeans_isBlockGridOf (s : State) (l : Latch) (c : Fin 3) : IsBlockGridOf s l c (planeMeans s l c (l.plane c)) := by
  intro i j
  have hmean := cellMean_le s l c (l.plane c) i j
  rw [planeMeans, Vector.getElem_ofFn, show (8 * j.val + i.val) % 8 = i by omega, show (8 * j.val + i.val) / 8 = j by omega,
    BitVec.toNat_ofNat, Nat.mod_eq_of_lt (by omega), cellMean, sum_cellAddrs, length_cellAddrs, length_cellRange,
    length_cellRange]
  rfl

theorem planeReadFaults_of_readsClean {pl : Platform} {p : PlaneRegs} (h : ReadsClean pl p) : planeReadFaults pl p = false := by
  refine List.any_eq_false.mpr fun n hn => ?_
  have hn : n < 64 := List.mem_range.mp hn
  simp only [Bool.not_eq_true, List.any_eq_false]
  exact fun a ha => h a (exists_mem_cellAddrs_iff.mp ⟨⟨n % 8, by omega⟩, ⟨n / 8, by omega⟩, ha⟩)

theorem reducePlane_of_readsClean {s : State} {l : Latch} {c : Fin 3} (hp : PlaneOk s.platform l c)
    (hclean : ReadsClean s.platform (l.plane c)) : reducePlane s l c = .ok (planeMeans s l c (l.plane c)) := by
  simp [reducePlane, validatePlane_of_ok hp, planeReadFaults_of_readsClean hclean]

theorem exec_reduce_of_ok {s : State} {l : Latch} {c : Fin 3} {g : BlockGrid} (hl : s.latch = some l)
    (h : reducePlane s l c = .ok g) :
    exec (.reduce (chBits c)) s = .next (succeed l.cmd (chBits c) (commitBlockGrid g s)) :=
  complete_of_ok hl (by rw [channelOperand_chBits]; simp only [bind, Except.bind, h]; rfl)

/-- Settles O14: what is committed are the 64 means, each its cell's sum over its number of samples. -/
theorem reduceCommitsTheCellMeans : Obligations.ReduceCommitsTheCellMeans := fun s l c hl hp hclean =>
  ⟨planeMeans s l c (l.plane c), planeMeans_isBlockGridOf s l c, exec_reduce_of_ok hl (reducePlane_of_readsClean hp hclean)⟩

/-! ### A plane that fails R123 -/

/-- `planeErrorCode` makes the checks of `validatePlane` in the same order; the last one is what is left. -/
theorem validatePlane_of_not_ok {pl : Platform} {l : Latch} {c : Fin 3} (h : ¬PlaneOk pl l c) :
    ∃ code, validatePlane pl l c = .error ⟨code, chBits c⟩ ∧ ErrorCode.bits code = planeErrorCode l c := by
  have hvalid : ¬∃ p, validatePlane pl l c = .ok p := fun ⟨_, hp⟩ => h (validatePlane_ok_iff.mp hp).1
  have hzero (v : BitVec 16) : v = 0 ↔ v.toNat = 0 := BitVec.toNat_inj.symm
  simp only [validatePlane, planeErrorCode, Bool.not_eq_true', hzero] at hvalid ⊢
  split_ifs at hvalid ⊢
  · exact ⟨_, rfl, rfl⟩
  · exact ⟨_, rfl, rfl⟩
  · exact ⟨_, rfl, rfl⟩
  · exact ⟨_, rfl, rfl⟩
  · exact ⟨_, rfl, rfl⟩
  · exact absurd ⟨_, rfl⟩ hvalid

/-- Settles O15: validation comes before the reads and before every commit. -/
theorem firstFailedPlaneCheckIsReported : Obligations.FirstFailedPlaneCheckIsReported := by
  intro s l c hl hp
  obtain ⟨code, hvalid, hcode⟩ := validatePlane_of_not_ok hp
  have hreduce : reducePlane s l c = .error ⟨code, chBits c⟩ := by rw [reducePlane, hvalid]
  exact hcode ▸ ⟨exec_reduce_of_error hl hreduce, exec_runCh_of_error hl hreduce⟩

end Sys2Proof.Machine

/-! SUPPORT. The buffers each command writes: what a command commits, said once, and O32 from it. -/

namespace Sys2Proof.Machine

/-- What command `i` may have committed in `u` of a state `s`: nothing, or the buffers its rule names (R126, R146, R163, R165, R185,
R186). -/
inductive Commits (s : State) : Instr → State → Prop
  | nothing (i : Instr) : Commits s i s
  | reduce (ch : BitVec 2) (g : BlockGrid) : Commits s (.reduce ch) (commitBlockGrid g s)
  | dct (v : CoeffGrid) : Commits s .dct (commitCoeffGrid v s)
  | reorder (c : Fin 3) (d : Descriptor) : Commits s (.reorder (chBits c)) (commitDescriptor c d s)
  | runCh (c : Fin 3) (g : BlockGrid) (v : CoeffGrid) (d : Descriptor) :
      Commits s (.runCh (chBits c)) (commitDescriptor c d (commitCoeffGrid v (commitBlockGrid g s)))
  | runFrame (g : BlockGrid) (v : CoeffGrid) (d0 d1 d2 : Descriptor) :
      Commits s .runFrame
        (commitDescriptor 2 d2 (commitDescriptor 1 d1 (commitDescriptor 0 d0 (commitCoeffGrid v (commitBlockGrid g s)))))
  | zzgen (m : BitVec 4) (z : ZzTable) : Commits s (.zzgen m) (commitZigzag z s)

/-- The four buffers of `t` are those of `u`. -/
structure SameBuffers (u t : State) : Prop where
  bg    : t.bg = u.bg
  cg    : t.cg = u.cg
  desc  : t.desc = u.desc
  zzgen : t.zzgen = u.zzgen

/-- The bookkeeping of a completion reaches no buffer. -/
theorem complete_commits {i : Instr} {ch : BitVec 2} {body : Latch → Except CmdError State} {s t : State}
    (h : complete ch body s = .next t) (hbody : ∀ l u, body l = .ok u → Commits s i u) :
    ∃ u, Commits s i u ∧ SameBuffers u t := by
  obtain ⟨-, ho⟩ | ⟨l, u, -, hb, ho⟩ | ⟨l, e, -, -, ho⟩ := complete_cases h <;> cases ho
  · exact ⟨_, .nothing i, ⟨rfl, rfl, rfl, rfl⟩⟩
  · exact ⟨u, hbody l u hb, ⟨rfl, rfl, rfl, rfl⟩⟩
  · exact ⟨s, .nothing i, ⟨rfl, rfl, rfl, rfl⟩⟩

theorem channelOperand_eq_ok {ch : BitVec 2} {c : Fin 3} (h : channelOperand ch = .ok c) : ch = chBits c := by
  obtain ⟨-, h'⟩ | ⟨c', hch, h'⟩ := channelOperand_cases ch <;> rw [h'] at h <;> cases h
  exact hch

theorem exec_commits {i : Instr} {s t : State} (h : exec i s = .next t) : ∃ u, Commits s i u ∧ SameBuffers u t := by
  cases i with
  | nop =>
    refine complete_commits (ch := 0#2) (body := fun _ => .ok s) h fun l u hu => ?_
    cases hu
    exact .nothing _
  | reduce ch =>
    refine complete_commits h fun l u hu => ?_
    simp only [bind_eq_ok, pure_eq_ok] at hu
    obtain ⟨c, -, g, -, rfl⟩ := hu
    exact .reduce ch g
  | dct =>
    refine complete_commits h fun l u hu => ?_
    split at hu <;> cases hu
    exact .dct _
  | reorder ch =>
    refine complete_commits h fun l u hu => ?_
    obtain ⟨c, hc, hu⟩ := bind_eq_ok.mp hu
    obtain rfl := channelOperand_eq_ok hc
    split at hu <;> cases hu
    exact .reorder c _
  | runCh ch =>
    refine complete_commits h fun l u hu => ?_
    simp only [bind_eq_ok, pure_eq_ok] at hu
    obtain ⟨c, hc, g, -, rfl⟩ := hu
    obtain rfl := channelOperand_eq_ok hc
    exact .runCh c g _ _
  | runFrame =>
    refine complete_commits h fun l u hu => ?_
    simp only [bind_eq_ok, pure_eq_ok] at hu
    obtain ⟨_, -, _, -, _, -, g0, -, g1, -, g2, -, rfl⟩ := hu
    exact .runFrame g2 _ _ _ _
  | zzgen m =>
    refine complete_commits h fun l u hu => ?_
    simp only [bind_eq_ok, pure_eq_ok] at hu
    obtain ⟨k, -, rfl⟩ := hu
    exact .zzgen m _

theorem commitDescriptor_desc_other {c : Fin 3} {d : Nat} (hd : d < 3) (h : d ≠ (chBits c).toNat) (v : Descriptor) (s : State) :
    (commitDescriptor c v s).desc[d] = s.desc[d] := by
  rw [commitDescriptor_desc]
  exact Vector.getElem_set_ne c.isLt hd fun hc => h (hc ▸ (chBits_toNat c).symm)

/-- Settles O32: each command's commits, case by case, leave the other buffers alone. -/
theorem commandsWriteOnlyTheirBuffers : Obligations.CommandsWriteOnlyTheirBuffers := by
  intro s t
  refine ⟨fun h => ?_, fun ch h => ?_, fun h => ?_, fun ch h => ?_, fun m h => ?_, fun ch h => ?_, fun h => ?_⟩
  all_goals obtain ⟨u, hcommits, hbg, hcg, hdesc, hzzgen⟩ := exec_commits h
  · cases hcommits
    exact ⟨hbg, hcg, hdesc, hzzgen⟩
  · cases hcommits <;> exact ⟨hcg, hdesc, hzzgen⟩
  · cases hcommits <;> exact ⟨hbg, hdesc, hzzgen⟩
  · rw [hbg, hcg, hdesc, hzzgen]
    cases hcommits with
    | nothing => exact ⟨rfl, rfl, rfl, fun _ _ => rfl⟩
    | reorder c d => exact ⟨rfl, rfl, rfl, fun e he => commitDescriptor_desc_other e.isLt he d _⟩
  · cases hcommits <;> exact ⟨hbg, hcg, hdesc⟩
  · rw [hdesc, hzzgen]
    cases hcommits with
    | nothing => exact ⟨rfl, fun _ _ => rfl⟩
    | runCh c g v d => exact ⟨rfl, fun e he => commitDescriptor_desc_other e.isLt he d _⟩
  · cases hcommits <;> exact hzzgen

end Sys2Proof.Machine

/-! SUPPORT. The DCT command (R146), and the finiteness of what it commits (R148): O18 and O57. -/

namespace Sys2Proof.Machine

theorem exec_dct_of_bg {s : State} {l : Latch} {g : BlockGrid} (hl : s.latch = some l) (hg : s.bg = some g) :
    exec .dct s = .next (succeed l.cmd 0#2 (commitCoeffGrid (dctRef g) s)) :=
  complete_of_ok hl (by rw [hg])

theorem exec_dct_of_no_bg {s : State} {l : Latch} (hl : s.latch = some l) (hg : s.bg = none) :
    exec .dct s = .next (takeError l.cmd ⟨.noData, 0#2⟩ s) :=
  complete_of_error hl (by rw [hg])

/-- Settles O18: BG valid or not decides what the completion hands on. -/
theorem dctCommitsDctRefOrNoData : Obligations.DctCommitsDctRefOrNoData :=
  fun _ _ hl => ⟨fun _ hg => exec_dct_of_bg hl hg, fun hg => exec_dct_of_no_bg hl hg⟩

/-- Settles O57: the grid argument of R148, already proved for O48. -/
theorem dctRefIsFiniteAndNeverNegativeZero : Obligations.DctRefIsFiniteAndNeverNegativeZero :=
  fun _ hg => dctRef_finiteNotNegZero hg

end Sys2Proof.Machine

/-! SUPPORT. The constants of R144 and the cosine table of R145 against the real numbers they stand for (O54): the cosines of the
multiples of π/16 are bounded through their squares, which the half-angle formula gives. -/

namespace Sys2Proof.Machine

/-! ### Half a unit in the last place -/

/-- `b` is within half a unit in its own last place of `v`. -/
def WithinHalfUlp (b : Double) (v : ℝ) : Prop :=
  |((f64ToRat b : ℚ) : ℝ) - v| ≤ (2 : ℝ) ^ ((f64Exponent b : ℤ) - 1076)

theorem f64Exponent_neg (b : Double) : f64Exponent (f64Neg b) = f64Exponent b := by
  have hzero : f64NegZero.extractLsb' 52 11 = 0#11 := by decide
  rw [f64Exponent, f64Neg, BitVec.extractLsb'_xor, hzero, BitVec.xor_zero, f64Exponent]

theorem f64Fraction_neg (b : Double) : f64Fraction (f64Neg b) = f64Fraction b := by
  have hzero : f64NegZero.extractLsb' 0 52 = 0#52 := by decide
  rw [f64Fraction, f64Neg, BitVec.extractLsb'_xor, hzero, BitVec.xor_zero, f64Fraction]

theorem f64Sign_neg (b : Double) : f64Sign (f64Neg b) = !f64Sign b := by
  have hone : f64NegZero.getLsbD 63 = true := by decide
  rw [f64Sign, f64Neg, BitVec.getLsbD_xor, hone, Bool.xor_true, f64Sign]

theorem f64ToRat_neg (b : Double) : f64ToRat (f64Neg b) = -f64ToRat b := by
  have hsignificand : f64Significand (f64Neg b) = f64Significand b := by
    rw [f64Significand, f64Exponent_neg, f64Fraction_neg, f64Significand]
  have hscale : f64Scale (f64Neg b) = f64Scale b := by rw [f64Scale, f64Exponent_neg, f64Scale]
  rw [f64ToRat_eq, f64ToRat_eq, hsignificand, hscale, f64Sign_neg, ← neg_mul]
  congr 1
  cases f64Sign b <;> simp [signFactor]

theorem WithinHalfUlp.neg {b : Double} {v : ℝ} (h : WithinHalfUlp b v) : WithinHalfUlp (f64Neg b) (-v) := by
  rw [WithinHalfUlp, f64ToRat_neg, f64Exponent_neg, Rat.cast_neg, neg_sub_neg, abs_sub_comm]
  exact h

theorem withinHalfUlp_of_eq {b : Double} {v : ℝ} (h : ((f64ToRat b : ℚ) : ℝ) = v) : WithinHalfUlp b v := by
  rw [WithinHalfUlp, h, sub_self, abs_zero]
  positivity

/-- An encoding of the rational `q` with exponent `e`. -/
theorem withinHalfUlp_of_bounds {b : Double} {v : ℝ} (q : ℚ) (e : ℕ) (hq : f64ToRat b = q) (he : f64Exponent b = e)
    (h : (q : ℝ) - 2 ^ ((e : ℤ) - 1076) ≤ v ∧ v ≤ (q : ℝ) + 2 ^ ((e : ℤ) - 1076)) : WithinHalfUlp b v := by
  obtain ⟨hlo, hhi⟩ := h
  rw [WithinHalfUlp, hq, he, abs_le]
  constructor <;> linarith

/-! ### The cosines of the multiples of π/16 -/

/-- cos(π·r/16), the real number that c_r of R144 stands for. -/
noncomputable def cosSixteenth (r : ℕ) : ℝ := Real.cos (Real.pi * r / 16)

theorem cosSixteenth_nonneg {r : ℕ} (hr : r ≤ 8) : 0 ≤ cosSixteenth r := by
  have hr' : (r : ℝ) ≤ 8 := by exact_mod_cast hr
  have hle : Real.pi * r ≤ Real.pi * 8 := by gcongr
  have h0 : 0 ≤ Real.pi * r := by positivity
  exact Real.cos_nonneg_of_neg_pi_div_two_le_of_le (by linarith [Real.pi_pos]) (by linarith)

theorem cosSixteenth_eight : cosSixteenth 8 = 0 := by
  rw [cosSixteenth, ← Real.cos_pi_div_two]
  congr 1
  push_cast
  ring

theorem cosSixteenth_sixteen_sub {r : ℕ} (hr : r ≤ 16) : cosSixteenth (16 - r) = -cosSixteenth r := by
  rw [cosSixteenth, cosSixteenth, ← Real.cos_pi_sub, Nat.cast_sub hr]
  congr 1
  push_cast
  ring

theorem cosSixteenth_sub_sixteen {r : ℕ} (hr : 16 ≤ r) : cosSixteenth (r - 16) = -cosSixteenth r := by
  rw [cosSixteenth, cosSixteenth, ← Real.cos_sub_pi, Nat.cast_sub hr]
  congr 1
  push_cast
  ring

theorem cosSixteenth_thirtyTwo_sub {r : ℕ} (hr : r ≤ 32) : cosSixteenth (32 - r) = cosSixteenth r := by
  rw [cosSixteenth, cosSixteenth, ← Real.cos_two_pi_sub, Nat.cast_sub hr]
  congr 1
  push_cast
  ring

theorem cosSixteenth_mod (k : ℕ) : cosSixteenth (k % 32) = cosSixteenth k := by
  have hk : (k : ℝ) = (k % 32 : ℕ) + 32 * (k / 32 : ℕ) := by exact_mod_cast (Nat.mod_add_div k 32).symm
  rw [cosSixteenth, cosSixteenth, hk, ← Real.cos_add_nat_mul_two_pi _ (k / 32)]
  congr 1
  ring

theorem cosSixteenth_sq (r : ℕ) : cosSixteenth r ^ 2 = 1 / 2 + cosSixteenth (2 * r) / 2 := by
  rw [cosSixteenth, Real.cos_sq, cosSixteenth]
  congr 3
  push_cast
  ring

/-- Bounds through the half-angle formula: from the cosine of twice the angle. -/
theorem cosSixteenth_bounds_of_double {r : ℕ} {lo hi lo' hi' : ℝ} (hr : r ≤ 8)
    (h : lo' ≤ cosSixteenth (2 * r) ∧ cosSixteenth (2 * r) ≤ hi') (hhi0 : 0 ≤ hi) (hlo : lo ^ 2 ≤ (1 + lo') / 2)
    (hhi : (1 + hi') / 2 ≤ hi ^ 2) : lo ≤ cosSixteenth r ∧ cosSixteenth r ≤ hi := by
  obtain ⟨hlo', hhi'⟩ := h
  have hsq := cosSixteenth_sq r
  constructor
  · exact (le_abs_self lo).trans (abs_le_of_sq_le_sq (by linarith) (cosSixteenth_nonneg hr))
  · exact (le_abs_self _).trans (abs_le_of_sq_le_sq (by linarith) hhi0)

theorem cosSixteenth_bounds_of_supplement {r : ℕ} {lo hi : ℝ} (hr : r ≤ 16) (h : lo ≤ cosSixteenth r ∧ cosSixteenth r ≤ hi) :
    -hi ≤ cosSixteenth (16 - r) ∧ cosSixteenth (16 - r) ≤ -lo := by
  rw [cosSixteenth_sixteen_sub hr]
  exact ⟨neg_le_neg h.2, neg_le_neg h.1⟩

theorem cosSixteenth_eight_bounds : 0 ≤ cosSixteenth 8 ∧ cosSixteenth 8 ≤ 0 :=
  ⟨cosSixteenth_eight.ge, cosSixteenth_eight.le⟩

theorem cosSixteenth_four_bounds :
    0.7071067811865475244008443 ≤ cosSixteenth 4 ∧ cosSixteenth 4 ≤ 0.7071067811865475244008444 :=
  cosSixteenth_bounds_of_double (by decide) cosSixteenth_eight_bounds (by norm_num) (by norm_num) (by norm_num)

theorem cosSixteenth_two_bounds : 0.92387953251128675612 ≤ cosSixteenth 2 ∧ cosSixteenth 2 ≤ 0.92387953251128675613 :=
  cosSixteenth_bounds_of_double (by decide) cosSixteenth_four_bounds (by norm_num) (by norm_num) (by norm_num)

theorem cosSixteenth_six_bounds : 0.38268343236508977172 ≤ cosSixteenth 6 ∧ cosSixteenth 6 ≤ 0.38268343236508977173 :=
  cosSixteenth_bounds_of_double (by decide) (cosSixteenth_bounds_of_supplement (r := 4) (by decide) cosSixteenth_four_bounds)
    (by norm_num) (by norm_num) (by norm_num)

/-! ### The constants of R144 -/

/-- c_r against its cosine, through the bounds on the cosine of twice the angle. -/
theorem cosConst_withinHalfUlp_of_double {r : ℕ} {lo hi : ℝ} (q : ℚ) (e : ℕ) (hq : f64ToRat (cosConst r) = q)
    (he : f64Exponent (cosConst r) = e) (hr : r ≤ 8) (h : lo ≤ cosSixteenth (2 * r) ∧ cosSixteenth (2 * r) ≤ hi) (hq0 : 0 ≤ q)
    (hlo : ((q : ℝ) - 2 ^ ((e : ℤ) - 1076)) ^ 2 ≤ (1 + lo) / 2) (hhi : (1 + hi) / 2 ≤ ((q : ℝ) + 2 ^ ((e : ℤ) - 1076)) ^ 2) :
    WithinHalfUlp (cosConst r) (cosSixteenth r) := by
  have hq0' : (0 : ℝ) ≤ q := by exact_mod_cast hq0
  exact withinHalfUlp_of_bounds q e hq he (cosSixteenth_bounds_of_double hr h (by positivity) hlo hhi)

theorem cosConst_withinHalfUlp {r : ℕ} (hr : r ≤ 8) : WithinHalfUlp (cosConst r) (cosSixteenth r) := by
  have h10 := cosSixteenth_bounds_of_supplement (by decide) cosSixteenth_six_bounds
  have h14 := cosSixteenth_bounds_of_supplement (by decide) cosSixteenth_two_bounds
  match r with
  | 0 =>
    have hone : f64ToRat (cosConst 0) = 1 := by decide +kernel
    exact withinHalfUlp_of_eq (by rw [hone, cosSixteenth]; norm_num)
  | 1 =>
    exact cosConst_withinHalfUlp_of_double (8834128446708912 / 2 ^ 53) 1022 (by decide +kernel) (by decide) hr
      cosSixteenth_two_bounds (by norm_num) (by norm_num) (by norm_num)
  | 2 =>
    exact cosConst_withinHalfUlp_of_double (8321567036706118 / 2 ^ 53) 1022 (by decide +kernel) (by decide) hr
      cosSixteenth_four_bounds (by norm_num) (by norm_num) (by norm_num)
  | 3 =>
    exact cosConst_withinHalfUlp_of_double (7489212472271267 / 2 ^ 53) 1022 (by decide +kernel) (by decide) hr
      cosSixteenth_six_bounds (by norm_num) (by norm_num) (by norm_num)
  | 4 =>
    exact cosConst_withinHalfUlp_of_double (6369051672525773 / 2 ^ 53) 1022 (by decide +kernel) (by decide) hr
      cosSixteenth_eight_bounds (by norm_num) (by norm_num) (by norm_num)
  | 5 =>
    exact cosConst_withinHalfUlp_of_double (5004131788810440 / 2 ^ 53) 1022 (by decide +kernel) (by decide) hr
      h10 (by norm_num) (by norm_num) (by norm_num)
  | 6 =>
    exact cosConst_withinHalfUlp_of_double (6893811853601123 / 2 ^ 54) 1021 (by decide +kernel) (by decide) hr
      (cosSixteenth_bounds_of_supplement (r := 4) (by decide) cosSixteenth_four_bounds) (by norm_num) (by norm_num) (by norm_num)
  | 7 =>
    exact cosConst_withinHalfUlp_of_double (7028869612283403 / 2 ^ 55) 1020 (by decide +kernel) (by decide) hr
      h14 (by norm_num) (by norm_num) (by norm_num)
  | 8 =>
    have hzero : f64ToRat (cosConst 8) = 0 := by decide +kernel
    exact withinHalfUlp_of_eq (by rw [hzero, cosSixteenth_eight, Rat.cast_zero])

theorem alphaDC_withinHalfUlp : WithinHalfUlp alphaDC (Real.sqrt (1 / 8)) :=
  withinHalfUlp_of_bounds (6369051672525773 / 2 ^ 54) 1021 (by decide +kernel) (by decide)
    ⟨Real.le_sqrt_of_sq_le (by norm_num), Real.sqrt_le_iff.mpr ⟨by norm_num, by norm_num⟩⟩

theorem alphaAC_eq : ((f64ToRat alphaAC : ℚ) : ℝ) = Real.sqrt (2 / 8) := by
  have hhalf : f64ToRat alphaAC = 1 / 2 := by decide +kernel
  rw [hhalf, eq_comm, Real.sqrt_eq_iff_mul_self_eq (by norm_num) (by norm_num)]
  norm_num

/-! ### The cosine table -/

/-- R145: the symmetries of the table are those of the cosine. -/
theorem cosTable_withinHalfUlp (n u : ℕ) : WithinHalfUlp (cosTable n u) (cosSixteenth ((2 * n + 1) * u)) := by
  have hlt : (2 * n + 1) * u % 32 < 32 := Nat.mod_lt _ (by decide)
  rw [← cosSixteenth_mod, cosTable]
  generalize (2 * n + 1) * u % 32 = r at hlt
  split_ifs with h8 h16 h24
  · exact cosConst_withinHalfUlp h8
  · have h := (cosConst_withinHalfUlp (show 16 - r ≤ 8 by omega)).neg
    rwa [cosSixteenth_sixteen_sub h16, neg_neg] at h
  · have h := (cosConst_withinHalfUlp (show r - 16 ≤ 8 by omega)).neg
    rwa [cosSixteenth_sub_sixteen (by omega), neg_neg] at h
  · have h := cosConst_withinHalfUlp (show 32 - r ≤ 8 by omega)
    rwa [cosSixteenth_thirtyTwo_sub hlt.le] at h

theorem cos_eq_cosSixteenth (n u : ℕ) :
    Real.cos (Real.pi * (2 * (n : ℝ) + 1) * (u : ℝ) / 16) = cosSixteenth ((2 * n + 1) * u) := by
  rw [cosSixteenth]
  push_cast
  rw [mul_assoc]

/-- Settles O54: the table by its symmetries, A0 by its square, A1 exactly. -/
theorem cosineTableIsWithinHalfAnUlp : Obligations.CosineTableIsWithinHalfAnUlp := by
  refine ⟨fun n u => ?_, alphaDC_withinHalfUlp, alphaAC_eq⟩
  rw [cos_eq_cosSixteenth]
  exact cosTable_withinHalfUlp n u

end Sys2Proof.Machine

/-! SUPPORT. R149: an absolute error bound for each binary64 operation, carried through DctRef to its distance from the real transform
of R142 (O58). -/

namespace Sys2Proof.Machine

/-! ### Approximations -/

/-- `d` is finite and within `ε` of the real number `v`. -/
def IsApprox (d : Double) (v ε : ℝ) : Prop := f64Finite d = true ∧ |((f64ToRat d : ℚ) : ℝ) - v| ≤ ε

theorem IsApprox.trans {d : Double} {v w ε δ : ℝ} (h : IsApprox d v ε) (hvw : |v - w| ≤ δ) : IsApprox d w (ε + δ) :=
  ⟨h.1, (abs_sub_le _ v w).trans (add_le_add h.2 hvw)⟩

theorem IsApprox.mono {d : Double} {v ε δ : ℝ} (h : IsApprox d v ε) (hle : ε ≤ δ) : IsApprox d v δ := ⟨h.1, h.2.trans hle⟩

theorem IsApprox.nonneg {d : Double} {v ε : ℝ} (h : IsApprox d v ε) : 0 ≤ ε := (abs_nonneg _).trans h.2

theorem WithinHalfUlp.isApprox {b : Double} {v : ℝ} (h : WithinHalfUlp b v) (he : f64Exponent b ≤ 1023) :
    IsApprox b v (1 / 2 ^ 53) := by
  refine ⟨bne_iff_ne.mpr (by omega), h.trans ?_⟩
  calc (2 : ℝ) ^ ((f64Exponent b : ℤ) - 1076) ≤ 2 ^ (-53 : ℤ) := zpow_le_zpow_right₀ (by norm_num) (by omega)
    _ = 1 / 2 ^ 53 := by norm_num

/-! ### The error of one rounding -/

/-- Half a last place is at most 2^(n - 53) for a value up to 2^n. -/
theorem half_last_place_le {k n : ℕ} {x : ℚ} (hk : k = 0 ∨ 2 ^ 52 ≤ x) (hx : x * 2 ^ k / 2 ^ 1074 ≤ 2 ^ n) :
    1 / 2 * ((2 : ℚ) ^ k / 2 ^ 1074) ≤ 2 ^ n / 2 ^ 53 := by
  obtain rfl | hk := hk
  · calc 1 / 2 * ((2 : ℚ) ^ 0 / 2 ^ 1074) ≤ 1 * (2 ^ n / 2 ^ 53) := by gcongr <;> norm_num
      _ = 2 ^ n / 2 ^ 53 := one_mul _
  · rw [mul_div_assoc] at hx
    have hle : 2 ^ 52 * ((2 : ℚ) ^ k / 2 ^ 1074) ≤ 2 ^ n := le_trans (by gcongr) hx
    generalize (2 : ℚ) ^ k / 2 ^ 1074 = u at hle
    linarith

/-- A value up to 2^n is rounded to a finite double within 2^(n - 53) of it. -/
theorem isApprox_round {neg : Bool} {m p n : ℕ} {v : ℚ} (hv : v = signFactor neg * (m * 2 ^ p / 2 ^ 2148)) (hn : n ≤ 1023)
    (hle : |v| ≤ 2 ^ n) : IsApprox (f64Make neg (f64RoundMagnitude m p)) v (2 ^ n / 2 ^ 53) := by
  obtain ⟨k, r, x, hbits, hvalue, hr, hx0, hx, hk⟩ := f64RoundMagnitude_spec m p
  rw [hvalue] at hv
  rw [hv, abs_signFactor_mul, abs_of_nonneg (by positivity)] at hle
  have hlt : k * 2 ^ 52 + r < 2047 * 2 ^ 52 := by
    rw [← not_le, overflow_iff hr hx hk, not_le]
    calc x * 2 ^ k / 2 ^ 1074 ≤ 2 ^ n := hle
      _ ≤ 2 ^ 1023 := pow_le_pow_right₀ (by norm_num) hn
      _ < 2 ^ 1024 - 2 ^ 970 := two_pow_lt_overflow_threshold
  have hrat := f64ToRat_make neg (hr.le_of_le (by exact_mod_cast hx.le))
    (hk.imp_right fun h => hr.ge_of_ge (by exact_mod_cast h)) hlt
  rw [hbits, min_eq_left hlt.le]
  refine ⟨(f64Finite_make_iff neg hlt.le).mpr hlt, ?_⟩
  have herr : |f64ToRat (f64Make neg (k * 2 ^ 52 + r)) - v| ≤ 2 ^ n / 2 ^ 53 := by
    rw [hrat, hv, abs_sub_in_units]
    calc |(r : ℚ) - x| * (2 ^ k / 2 ^ 1074) ≤ 1 / 2 * (2 ^ k / 2 ^ 1074) := by gcongr; exact hr.near
      _ ≤ 2 ^ n / 2 ^ 53 := half_last_place_le hk hle
  simpa using (Rat.cast_le (K := ℝ)).mpr herr

/-! ### The error of one operation -/

/-- A small integer is a double. -/
theorem isApprox_ofInt {z : ℤ} {n : ℕ} (hz : |z| ≤ 2 ^ n) (hn : n ≤ 52) : IsApprox (f64OfInt z) z 0 := by
  have hvalue : (z : ℚ) = signFactor (z < 0) * (z.natAbs * 2 ^ 2148 / 2 ^ 2148) := by
    have hsign : (if z = 0 then false else z < 0 : Bool) = (z < 0 : Bool) :=
      ite_eq_right_iff.mpr fun h => (decide_eq_false (by omega)).symm
    rw [mul_div_cancel_right₀ _ (by positivity), ← hsign, signFactor_mul_natAbs z false]
  obtain ⟨hfin, herr⟩ := isApprox_round hvalue (n := n) (by omega) (by exact_mod_cast hz)
  obtain ⟨-, y, -, hy⟩ := f64OfInt_onGrid hz (n := n) (by omega)
  have hlt : (2 : ℝ) ^ n / 2 ^ 53 < 1 := by
    rw [div_lt_one (by positivity)]
    exact pow_lt_pow_right₀ (by norm_num) (by omega)
  have hyz : |((y - z : ℤ) : ℝ)| < 1 := by
    rw [← f64OfInt, hy] at herr
    push_cast at herr ⊢
    rw [pow_zero, div_one] at herr
    exact herr.trans_lt hlt
  have heq : y - z = 0 := Int.abs_lt_one_iff.mp (by exact_mod_cast hyz)
  refine ⟨hfin, ?_⟩
  rw [hy, sub_eq_zero.mp heq]
  simp

theorem IsApprox.add {a b : Double} {v w ε δ : ℝ} {n : ℕ} (ha : IsApprox a v ε) (hb : IsApprox b w δ) (hn : n ≤ 1023)
    (hle : |v + w| + (ε + δ) ≤ 2 ^ n) : IsApprox (f64Add a b) (v + w) (2 ^ n / 2 ^ 53 + (ε + δ)) := by
  obtain ⟨hfa, ha⟩ := ha
  obtain ⟨hfb, hb⟩ := hb
  have herr : |((f64ToRat a + f64ToRat b : ℚ) : ℝ) - (v + w)| ≤ ε + δ := by
    rw [Rat.cast_add, add_sub_add_comm]
    exact (abs_add_le _ _).trans (add_le_add ha hb)
  have hsum : |((f64ToRat a + f64ToRat b : ℚ) : ℝ)| ≤ 2 ^ n := by
    linarith [abs_sub_abs_le_abs_sub ((f64ToRat a + f64ToRat b : ℚ) : ℝ) (v + w)]
  have hvalue := (f64ToRat_add_eq a b).trans (signFactor_mul_scaled (exactSum a b) (f64Sign a && f64Sign b) _).symm
  rw [f64Add_of_finite hfa hfb]
  exact (isApprox_round hvalue hn (by exact_mod_cast hsum)).trans herr

theorem IsApprox.mul {a b : Double} {v w ε δ V W : ℝ} {n : ℕ} (ha : IsApprox a v ε) (hb : IsApprox b w δ) (hv : |v| ≤ V)
    (hw : |w| ≤ W) (hn : n ≤ 1023) (hle : V * W + (V * δ + ε * (W + δ)) ≤ 2 ^ n) :
    IsApprox (f64Mul a b) (v * w) (2 ^ n / 2 ^ 53 + (V * δ + ε * (W + δ))) := by
  have hε := ha.nonneg
  have hV := (abs_nonneg v).trans hv
  obtain ⟨hfa, ha⟩ := ha
  obtain ⟨hfb, hb⟩ := hb
  have hb' : |((f64ToRat b : ℚ) : ℝ)| ≤ W + δ := by
    linarith [abs_sub_abs_le_abs_sub ((f64ToRat b : ℚ) : ℝ) w]
  have herr : |((f64ToRat a * f64ToRat b : ℚ) : ℝ) - v * w| ≤ V * δ + ε * (W + δ) := by
    calc |((f64ToRat a * f64ToRat b : ℚ) : ℝ) - v * w|
        = |v * (f64ToRat b - w) + (f64ToRat a - v) * f64ToRat b| := by push_cast; congr 1; ring
      _ ≤ |v| * |f64ToRat b - w| + |f64ToRat a - v| * |(f64ToRat b : ℝ)| := by
        rw [← abs_mul, ← abs_mul]
        exact abs_add_le _ _
      _ ≤ V * δ + ε * (W + δ) := by gcongr
  have hprod : |((f64ToRat a * f64ToRat b : ℚ) : ℝ)| ≤ 2 ^ n := by
    have hvw : |v * w| ≤ V * W := by rw [abs_mul]; gcongr
    linarith [abs_sub_abs_le_abs_sub ((f64ToRat a * f64ToRat b : ℚ) : ℝ) (v * w)]
  rw [f64Mul_of_finite hfa hfb]
  exact (isApprox_round (f64ToRat_mul_eq a b) hn (by exact_mod_cast hprod)).trans herr

/-- Adding up terms bounded by `M`: every addition adds the error of its term and its own rounding error, for one bound 2^n on all
partial sums. -/
theorem IsApprox.foldl_add {ι : Type} {t : ι → Double} {v : ι → ℝ} {M ε : ℝ} {n : ℕ} (ht : ∀ i, IsApprox (t i) (v i) ε)
    (hv : ∀ i, |v i| ≤ M) (hn : n ≤ 1023) (l : List ι) {acc : Double} {s δ : ℝ} (hacc : IsApprox acc s δ)
    (hle : |s| + δ + l.length * (M + ε + 2 ^ n / 2 ^ 53) ≤ 2 ^ n) :
    IsApprox ((l.map t).foldl f64Add acc) (s + (l.map v).sum) (δ + l.length * (ε + 2 ^ n / 2 ^ 53)) := by
  induction l generalizing acc s δ with
  | nil => simpa using hacc
  | cons i l ih =>
    rw [List.length_cons, Nat.cast_succ] at hle
    have hsi : |s + v i| ≤ |s| + M := (abs_add_le _ _).trans (add_le_add_right (hv i) _)
    have hε := (ht i).nonneg
    have hM := (abs_nonneg _).trans (hv i)
    have hrest : 0 ≤ (l.length : ℝ) * (M + ε + 2 ^ n / 2 ^ 53) := by positivity
    have hround : 0 ≤ (2 : ℝ) ^ n / 2 ^ 53 := by positivity
    have hstep := hacc.add (ht i) hn (by linarith)
    have h := ih hstep (by linarith)
    rw [List.map_cons, List.map_cons, List.foldl_cons, List.sum_cons, ← add_assoc]
    exact h.mono (by rw [List.length_cons, Nat.cast_succ]; linarith)

/-! ### The parts of DctRef -/

/-- The term of R142 for ix, iy at frequencies x, y. -/
noncomputable def dctxTerm (g : BlockGrid) (x y : ℕ) (i : Fin 8 × Fin 8) : ℝ :=
  ((g[8 * i.2.val + i.1.val].toInt : ℝ) - 128) * cosSixteenth ((2 * i.1 + 1) * x) * cosSixteenth ((2 * i.2 + 1) * y)

/-- alpha(k) of R141. -/
noncomputable def alphaReal (k : ℕ) : ℝ := if k = 0 then Real.sqrt (1 / 8) else Real.sqrt (2 / 8)

theorem abs_cosSixteenth_le (r : ℕ) : |cosSixteenth r| ≤ 1 := Real.abs_cos_le_one _

theorem cosTable_isApprox (n u : Fin 8) : IsApprox (cosTable n u) (cosSixteenth ((2 * n + 1) * u)) (1 / 2 ^ 53) :=
  (cosTable_withinHalfUlp n u).isApprox (by revert n u; decide +kernel)

theorem alpha64_isApprox (k : ℕ) : IsApprox (alpha64 k) (alphaReal k) (1 / 2 ^ 53) := by
  unfold alpha64 alphaReal
  split
  · exact alphaDC_withinHalfUlp.isApprox (by decide)
  · exact (withinHalfUlp_of_eq alphaAC_eq).isApprox (by decide)

theorem abs_alphaReal_le (k : ℕ) : |alphaReal k| ≤ 1 / 2 := by
  have h0 : 0 ≤ alphaReal k := by unfold alphaReal; split <;> positivity
  rw [abs_of_nonneg h0, alphaReal]
  split <;> exact Real.sqrt_le_iff.mpr ⟨by norm_num, by norm_num⟩

theorem abs_entry_sub_le {g : BlockGrid} (hg : GridInRange g) (n : Fin 64) : |g[n.val].toInt - 128| ≤ 2 ^ 7 := by
  have hle : g[n.val].toNat ≤ 255 := hg n
  rw [BitVec.toInt_eq_toNat_of_lt (by omega), abs_le]
  omega

theorem abs_dctxTerm_le {g : BlockGrid} (hg : GridInRange g) (x y : ℕ) (i : Fin 8 × Fin 8) : |dctxTerm g x y i| ≤ 128 := by
  have hentry : |(g[8 * i.2.val + i.1.val].toInt : ℝ) - 128| ≤ 2 ^ 7 := by
    exact_mod_cast abs_entry_sub_le hg ⟨8 * i.2.val + i.1.val, by omega⟩
  rw [dctxTerm, abs_mul, abs_mul]
  calc _ ≤ (2 : ℝ) ^ 7 * 1 * 1 := by gcongr <;> exact abs_cosSixteenth_le _
    _ = 128 := by norm_num

theorem dctTerm_isApprox {g : BlockGrid} (hg : GridInRange g) (x y : Fin 8) (i : Fin 8 × Fin 8) :
    IsApprox (dctTerm g x y i.1 i.2) (dctxTerm g x y i) (1 / 2 ^ 43) := by
  have hentry := abs_entry_sub_le hg ⟨8 * i.2.val + i.1.val, by omega⟩
  have hreal : |((g[8 * i.2.val + i.1.val].toInt - 128 : ℤ) : ℝ)| ≤ 2 ^ 7 := by exact_mod_cast hentry
  have hrow := (isApprox_ofInt hentry (by decide)).mul (cosTable_isApprox i.1 x) hreal (abs_cosSixteenth_le _) (n := 8) (by decide)
    (by norm_num)
  have hrow_le : |((g[8 * i.2.val + i.1.val].toInt - 128 : ℤ) : ℝ) * cosSixteenth ((2 * i.1 + 1) * x)| ≤ 2 ^ 7 := by
    rw [abs_mul]
    exact (mul_le_mul hreal (abs_cosSixteenth_le _) (abs_nonneg _) (by positivity)).trans_eq (mul_one _)
  have h := hrow.mul (cosTable_isApprox i.2 y) hrow_le (abs_cosSixteenth_le _) (n := 8) (by decide) (by norm_num)
  rw [Int.cast_sub] at h
  exact h.mono (by norm_num)

theorem dctTerms_eq_map (g : BlockGrid) (x y : ℕ) :
    dctTerms g x y = ((List.finRange 8).product (List.finRange 8)).map fun i => dctTerm g x y i.1 i.2 := by
  simp [dctTerms, List.product, List.map_flatMap, Function.comp_def]

/-- The double sum of R142. -/
theorem sum_dctxTerm (g : BlockGrid) (x y : ℕ) :
    (((List.finRange 8).product (List.finRange 8)).map (dctxTerm g x y)).sum =
      ∑ ix : Fin 8, ∑ iy : Fin 8, dctxTerm g x y (ix, iy) := by
  simp [List.product, List.flatMap, List.sum_flatten, Function.comp_def, Fin.sum_univ_def]

theorem dctSum_isApprox {g : BlockGrid} (hg : GridInRange g) (x y : Fin 8) :
    IsApprox (dctSum g x y) (∑ ix : Fin 8, ∑ iy : Fin 8, dctxTerm g x y (ix, iy)) (1 / 2 ^ 32) := by
  have hzero : IsApprox (f64OfInt 0) (0 : ℤ) 0 := isApprox_ofInt (n := 0) (by norm_num) (by decide)
  have hlength : ((List.finRange 8).product (List.finRange 8)).length = 64 := by decide
  have h := hzero.foldl_add (dctTerm_isApprox hg x y) (abs_dctxTerm_le hg x y) (n := 14) (by decide)
    ((List.finRange 8).product (List.finRange 8)) (by rw [hlength]; norm_num)
  rw [← dctTerms_eq_map, ← dctSum_eq_foldl, sum_dctxTerm, hlength, Int.cast_zero, zero_add] at h
  exact h.mono (by norm_num)

theorem abs_sum_dctxTerm_le {g : BlockGrid} (hg : GridInRange g) (x y : ℕ) :
    |∑ ix : Fin 8, ∑ iy : Fin 8, dctxTerm g x y (ix, iy)| ≤ 8192 := by
  calc |∑ ix : Fin 8, ∑ iy : Fin 8, dctxTerm g x y (ix, iy)|
      ≤ ∑ ix : Fin 8, |∑ iy : Fin 8, dctxTerm g x y (ix, iy)| := Finset.abs_sum_le_sum_abs ..
    _ ≤ ∑ ix : Fin 8, ∑ iy : Fin 8, |dctxTerm g x y (ix, iy)| := by gcongr; exact Finset.abs_sum_le_sum_abs ..
    _ ≤ ∑ ix : Fin 8, ∑ iy : Fin 8, 128 := by gcongr; exact abs_dctxTerm_le hg x y _
    _ = 8192 := by norm_num

theorem dctCoeff_isApprox {g : BlockGrid} (hg : GridInRange g) (x y : Fin 8) :
    IsApprox (dctCoeff g x y) (alphaReal x * alphaReal y * ∑ ix : Fin 8, ∑ iy : Fin 8, dctxTerm g x y (ix, iy)) (3 / 2 ^ 35) := by
  have hfactor := (alpha64_isApprox x).mul (alpha64_isApprox y) (abs_alphaReal_le x) (abs_alphaReal_le y) (n := 0) (by decide)
    (by norm_num)
  have hfactor_le : |alphaReal x * alphaReal y| ≤ 1 / 4 := by
    rw [abs_mul]
    calc _ ≤ (1 / 2 : ℝ) * (1 / 2) := by gcongr <;> exact abs_alphaReal_le _
      _ = 1 / 4 := by norm_num
  exact (hfactor.mul (dctSum_isApprox hg x y) hfactor_le (abs_sum_dctxTerm_le hg x y) (n := 12) (by decide) (by norm_num)).mono
    (by norm_num)

/-- Settles O58: the error bounds of the parts of R147, added up, stay below 1e-10. -/
theorem dctRefIsAccurate : Obligations.DctRefIsAccurate := by
  intro g hg x y
  have h := (dctCoeff_isApprox hg x y).2
  have hentry : (dctRef g)[8 * x.val + y.val] = dctCoeff g x y := by
    rw [dctRef, Vector.getElem_ofFn, show (8 * x.val + y.val) / 8 = x by omega, show (8 * x.val + y.val) % 8 = y by omega]
  simp only [hentry, cos_eq_cosSixteenth]
  exact h.trans_lt (by norm_num)

end Sys2Proof.Machine

/-! SUPPORT. The Zigzag Reorderer: Zigzag(m) as the linear indices below m² sorted by diagonal and row (R161, R162), the table ZZGEN
commits (R163), the ROM (R160) and REORDER (R164 to R166); O19 to O23. -/

namespace Sys2Proof.Machine

/-! ### The construction of R161, for every size m -/

/-- The row (x of R161) of the entry written at step `j` of diagonal `i`: odd diagonals go down, even ones up. -/
def zigzagRow (i j : Nat) : Nat := if i % 2 = 1 then j else i - j

/-- The steps of diagonal `i`, those at which row and column are below m. -/
def zigzagSteps (m i : Nat) : List Nat := List.range' (i + 1 - m) (min i (m - 1) + 1 - (i + 1 - m))

theorem mem_zigzagSteps {m i j : Nat} (hm : 0 < m) : j ∈ zigzagSteps m i ↔ j ≤ i ∧ j < m ∧ i - j < m := by
  rw [zigzagSteps, List.mem_range'_1]
  omega

theorem zigzagDiagonal_eq_map {m : Nat} (hm : 0 < m) (i : Nat) :
    zigzagDiagonal m i = (zigzagSteps m i).map fun j => m * zigzagRow i j + (i - zigzagRow i j) := by
  refine List.map_congr_left fun j hj => ?_
  obtain ⟨hji, -, -⟩ := (mem_zigzagSteps hm).mp hj
  unfold zigzagRow
  split
  · have hcols : j ≤ j * m := Nat.le_mul_of_pos_right j hm
    rw [Nat.mul_sub_one, Nat.mul_comm m j]
    omega
  · rw [Nat.mul_comm, Nat.sub_sub_self hji]

theorem zigzagRow_mem {m i j : Nat} (hm : 0 < m) (hj : j ∈ zigzagSteps m i) : zigzagRow i j ∈ zigzagSteps m i := by
  rw [mem_zigzagSteps hm] at hj ⊢
  unfold zigzagRow
  split <;> omega

theorem zigzagRow_zigzagRow {i j : Nat} (hj : j ≤ i) : zigzagRow i (zigzagRow i j) = j := by
  unfold zigzagRow
  split
  · rfl
  · exact Nat.sub_sub_self hj

/-- The linear index m·r + (i - r) lies in row r, on diagonal i. -/
theorem div_and_mod_of_row {m i r : Nat} (hm : 0 < m) (hr : r ∈ zigzagSteps m i) :
    (m * r + (i - r)) / m = r ∧ (m * r + (i - r)) / m + (m * r + (i - r)) % m = i := by
  obtain ⟨hri, -, hcol⟩ := (mem_zigzagSteps hm).mp hr
  rw [Nat.mul_add_div hm, Nat.div_eq_of_lt hcol, Nat.mul_add_mod, Nat.mod_eq_of_lt hcol]
  exact ⟨rfl, Nat.add_sub_cancel' hri⟩

theorem mem_zigzagDiagonal {m i p : Nat} (hm : 0 < m) : p ∈ zigzagDiagonal m i ↔ p / m < m ∧ p / m + p % m = i := by
  rw [zigzagDiagonal_eq_map hm, List.mem_map]
  constructor
  · rintro ⟨j, hj, rfl⟩
    have hrow := zigzagRow_mem hm hj
    obtain ⟨hdiv, hdiag⟩ := div_and_mod_of_row hm hrow
    exact ⟨hdiv.symm ▸ ((mem_zigzagSteps hm).mp hrow).2.1, hdiag⟩
  · rintro ⟨hrow, rfl⟩
    have hcol := Nat.mod_lt p hm
    have hstep : p / m ∈ zigzagSteps m (p / m + p % m) := (mem_zigzagSteps hm).mpr (by omega)
    refine ⟨_, zigzagRow_mem hm hstep, ?_⟩
    rw [zigzagRow_zigzagRow (Nat.le_add_right ..), Nat.add_sub_cancel_left, Nat.div_add_mod]

/-- R162: the entries are the linear indices below m². -/
theorem mem_zigzag {m p : Nat} (hm : 0 < m) : p ∈ zigzag m ↔ p < m * m := by
  have hcol := Nat.mod_lt p hm
  simp only [zigzag, List.mem_flatMap, List.mem_range, mem_zigzagDiagonal hm, ← Nat.div_lt_iff_lt_mul hm]
  exact ⟨fun ⟨_, _, hrow, _⟩ => hrow, fun hrow => ⟨_, by omega, hrow, rfl⟩⟩

/-- The order of R162: by diagonal number, then down an odd diagonal and up an even one. -/
def ZigzagBefore (m p q : Nat) : Prop :=
  p / m + p % m ≤ q / m + q % m ∧
  (p / m + p % m = q / m + q % m → if (p / m + p % m) % 2 = 1 then p / m < q / m else q / m < p / m)

theorem ZigzagBefore.ne {m p q : Nat} (h : ZigzagBefore m p q) : p ≠ q := by
  rintro rfl
  have hrow := h.2 rfl
  split at hrow <;> omega

theorem zigzagDiagonal_pairwise {m : Nat} (hm : 0 < m) (i : Nat) : (zigzagDiagonal m i).Pairwise (ZigzagBefore m) := by
  rw [zigzagDiagonal_eq_map hm, List.pairwise_map]
  refine (List.pairwise_lt_range' 1).imp_of_mem fun {a b} ha hb hab => ?_
  obtain ⟨hdiva, hdiaga⟩ := div_and_mod_of_row hm (zigzagRow_mem hm ha)
  obtain ⟨hdivb, hdiagb⟩ := div_and_mod_of_row hm (zigzagRow_mem hm hb)
  rw [ZigzagBefore, hdiaga, hdiagb, hdiva, hdivb]
  refine ⟨le_rfl, fun _ => ?_⟩
  have hstep := (mem_zigzagSteps hm).mp hb
  unfold zigzagRow
  split <;> omega

theorem zigzag_pairwise {m : Nat} (hm : 0 < m) : (zigzag m).Pairwise (ZigzagBefore m) := by
  refine List.pairwise_flatMap.mpr ⟨fun i _ => zigzagDiagonal_pairwise hm i, List.pairwise_lt_range.imp fun hab p hp q hq => ?_⟩
  obtain ⟨-, rfl⟩ := (mem_zigzagDiagonal hm).mp hp
  obtain ⟨-, rfl⟩ := (mem_zigzagDiagonal hm).mp hq
  exact ⟨hab.le, fun h => absurd h hab.ne⟩

theorem zigzag_perm_range {m : Nat} (hm : 0 < m) : (zigzag m).Perm (List.range (m * m)) := by
  have hnodup : (zigzag m).Nodup := (zigzag_pairwise hm).imp ZigzagBefore.ne
  exact (List.perm_ext_iff_of_nodup hnodup List.nodup_range).mpr fun p => (mem_zigzag hm).trans List.mem_range.symm

theorem zigzag_head? {m : Nat} (hm : 0 < m) : (zigzag m).head? = some 0 := by
  obtain ⟨k, hk⟩ : ∃ k, 2 * m - 1 = k + 1 := ⟨2 * m - 2, by omega⟩
  have h0 : zigzagDiagonal m 0 = [0] := by
    rw [zigzagDiagonal_eq_map hm, zigzagSteps, Nat.zero_min, Nat.sub_eq_zero_of_le hm]
    rfl
  rw [zigzag, hk, List.range_succ_eq_map, List.flatMap_cons, h0]
  rfl

theorem rel_of_mem_zip_tail {α : Type} {R : α → α → Prop} {l : List α} (h : l.Pairwise R) {pq : α × α}
    (hpq : pq ∈ l.zip l.tail) : R pq.1 pq.2 := by
  obtain ⟨i, hi, rfl⟩ := List.getElem_of_mem hpq
  rw [List.length_zip, List.length_tail] at hi
  rw [List.getElem_zip, List.getElem_tail]
  exact List.pairwise_iff_getElem.mp h i (i + 1) (by omega) (by omega) (Nat.lt_succ_self i)

/-- Settles O22: R161's construction has these properties for every m > 0; the list is sorted by `ZigzagBefore`. -/
theorem zigzagLaws : Obligations.ZigzagLaws := by
  intro m hmem
  have hm : 0 < m := (List.mem_range'_1.mp hmem).1
  exact ⟨zigzag_perm_range hm, zigzag_head? hm, fun pq hpq => rel_of_mem_zip_tail (zigzag_pairwise hm) hpq⟩

/-! ### ZZGEN -/

/-- No entry of Zigzag(m) is cut to six bits: it is below m² (R162), so below 64. -/
theorem zigzagTable_toNat {m : Nat} (hm : 0 < m) (hm8 : m ≤ 8) (n : Fin 64) :
    (zigzagTable m)[n.val].toNat = if n.val < m * m then (zigzag m).getD n.val 0 else 0 := by
  rw [zigzagTable, Vector.getElem_ofFn]
  split
  case isFalse => rfl
  case isTrue hn =>
    have hlen : n.val < (zigzag m).length := by rwa [(zigzag_perm_range hm).length_eq, List.length_range]
    have hlt : (zigzag m)[n.val] < m * m := (mem_zigzag hm).mp (List.getElem_mem hlen)
    have hsq : m * m ≤ 8 * 8 := Nat.mul_le_mul hm8 hm8
    rw [List.getD_eq_getElem _ _ hlen, BitVec.toNat_ofNat, Nat.mod_eq_of_lt (by omega)]

/-- Settles O21: the size operand passes, and the table is committed. -/
theorem zzgenCommitsItsTable : Obligations.ZzgenCommitsItsTable := by
  intro s l m hl h1 h8
  have hsize : sizeOk m = true := by
    rw [sizeOk, Bool.and_eq_true, decide_eq_true_eq, decide_eq_true_eq]
    exact ⟨h1, h8⟩
  exact ⟨zigzagTable m.toNat, zigzagTable_toNat h1 h8, complete_of_ok hl (by rw [sizeOperand_of_ok hsize]; rfl)⟩

/-! ### The ROM -/

theorem perm8List_eq_zigzag : perm8List = zigzag 8 := by decide

/-- Settles O23: the ROM's window reads the written-out list, which is Zigzag(8). -/
theorem romHoldsZigzagEight : Obligations.RomHoldsZigzagEight := by
  refine ⟨perm8List_eq_zigzag, fun k => ?_⟩
  rw [← perm8List_eq_zigzag]
  exact ⟨perm8_toNat k, fun s => regRead_zzRom_word s k⟩

/-! ### REORDER -/

theorem exec_reorder_of_cg {s : State} {l : Latch} {v : CoeffGrid} (c : Fin 3) (hl : s.latch = some l) (hv : s.cg = some v) :
    exec (.reorder (chBits c)) s = .next (succeed l.cmd (chBits c) (commitDescriptor c (reorder v) s)) :=
  complete_of_ok hl (by rw [channelOperand_chBits, hv]; rfl)

theorem exec_reorder_of_no_cg {s : State} {l : Latch} (c : Fin 3) (hl : s.latch = some l) (hv : s.cg = none) :
    exec (.reorder (chBits c)) s = .next (takeError l.cmd ⟨.noData, chBits c⟩ s) :=
  complete_of_error hl (by rw [channelOperand_chBits, hv]; rfl)

/-- The (row, column) reading of a cell number is the number itself (R13). -/
theorem getElem?_perm8_cell (v : CoeffGrid) (k : Fin 64) :
    v[8 * (perm8List.getD k.val 0 / 8) + perm8List.getD k.val 0 % 8]? = some (reorder v)[k.val] := by
  have hk : perm8List.getD k.val 0 = (perm8 k).toNat := by revert k; decide
  rw [Nat.div_add_mod, hk, reorder, Vector.getElem_ofFn]
  exact Vector.getElem?_eq_getElem (perm8 k).isLt

/-- R164: the inverse permutation finds cell `n` of CG again. -/
theorem getElem?_reorder_inv8 (v : CoeffGrid) (n : Fin 64) : (reorder v)[inv8List.getD n.val 0]? = some v[n.val] := by
  have hlt : inv8List.getD n.val 0 < 64 := by revert n; decide
  have hinv : (perm8 ⟨inv8List.getD n.val 0, hlt⟩).toNat = n.val := by revert n; decide
  rw [Vector.getElem?_eq_getElem hlt, reorder, Vector.getElem_ofFn]
  simp only [hinv]

/-- Settles O19: CG valid or not decides what the completion hands on; CH = 3 is refused before that. -/
theorem reorderCommitsZigzagOrder : Obligations.ReorderCommitsZigzagOrder := fun _ _ hl =>
  ⟨fun c v hv => ⟨reorder v, getElem?_perm8_cell v, exec_reorder_of_cg c hl hv⟩, fun c hv => exec_reorder_of_no_cg c hl hv,
    exec_of_checkOperands_error (e := ⟨.badChannel, 3#2⟩) hl rfl⟩

/-- Settles O20: entry by entry from R165's map and R164's inverse; as a multiset because PERM8 is a permutation. -/
theorem reorderIsAPermutation : Obligations.ReorderIsAPermutation := fun _ _ c v hl hv =>
  ⟨_, reorder v, exec_reorder_of_cg c hl hv, Vector.getElem_set_self c.isLt, getElem?_perm8_cell v,
    fun x y => getElem?_reorder_inv8 v ⟨8 * x.val + y.val, by omega⟩, reorder_perm v⟩

end Sys2Proof.Machine

/-! SUPPORT. The Engine's step and the acceptance of a word: what runs, and that it completes (O6, O8, O9, O13), and what a success
completion records (O30). -/

namespace Sys2Proof.Machine

/-! ### The Engine's step (R182) -/

/-- Settles O8: whatever the Engine's step does to a state, the state it answers is idle. -/
theorem engineStepAlwaysCompletes : Obligations.EngineStepAlwaysCompletes := by
  intro s l _
  obtain ⟨t, ht, hresult⟩ := engineStep_engineResult s
  exact ⟨t, ht, hresult.idle_and_hostSide.1⟩

/-- `s` with the word `w` in flight, accepted with the live registers (R180). -/
def State.accepted (s : State) (w : Word) : State := { s with latch := some (captureLatch w s) }

theorem decode_of_decodeTableWord {nbits w : Nat} {i : Instr} (h : decodeTableWord nbits w = some i) :
    decode (tableWord nbits w) = .ok i := by
  rw [decodeTableWord] at h
  split at h
  · next j hj => rw [hj, Option.some.inj h]
  · cases h

/-- The word that `withFetchWord` places is what the next step runs, and its turn is taken off the schedule (log 2). -/
theorem step_withFetchWord {s : State} {w : Nat} {i : Instr} (h : decodeTableWord 32 w = some i) :
    step (s.withFetchWord 32 w) = exec i (s.accepted (tableWord 32 w)) := by
  rw [step_of_turn rfl, turnStep, engineStep_of_decode rfl (decode_of_decodeTableWord h)]
  rfl

/-- Settles O6: the Engine moves by its turn, by the fairness of R270, or by the turn that comes with a word placed. -/
theorem stepRunsTheDecodedCommand : Obligations.StepRunsTheDecodedCommand := by
  refine ⟨fun s l i rest hl hd hs => ?_, fun s l i hl hd hs hlive => ?_, fun s w i h => step_withFetchWord h⟩
  · rw [step_of_turn hs, turnStep, engineStep_of_decode (by exact hl) hd]
  · obtain ⟨t, ht, -⟩ := exec_engineResult i s
    rw [step_of_exec ht hl hd hs hlive, ht]

/-- Settles O9: a CMD write is an `issue`, which looks at busy first. -/
theorem commandWriteIsAcceptedOrOverruns : Obligations.CommandWriteIsAcceptedOrOverruns :=
  fun s w => ⟨fun hl => (regWrite_cmd s w).trans (issue_of_idle hl), fun _ hl => (regWrite_cmd s w).trans (issue_of_busy hl)⟩

/-- Settles O13: NOP's completion has nothing to commit and nothing to raise. -/
theorem nopOnlyCompletes : Obligations.NopOnlyCompletes := fun s _ hl =>
  complete_of_ok (ch := 0#2) (body := fun _ => .ok s) hl rfl

/-! ### The record of a success (R183) -/

theorem errorCode_bits_ne_zero (c : ErrorCode) : ErrorCode.bits c ≠ 0 := by cases c <;> decide

/-- A completion that reports code 0 is the success one, so it records the channel it was given. -/
theorem complete_lastCh {ch : BitVec 2} {body : Latch → Except CmdError State} {s t : State} {l : Latch} (hl : s.latch = some l)
    (h : complete ch body s = .next t) (hcode : t.lastCode = 0) : t.lastCh = ch := by
  obtain ⟨hidle, -⟩ | ⟨l', u, -, -, ho⟩ | ⟨l', e, -, -, ho⟩ := complete_cases h
  · cases hidle.symm.trans hl
  · cases ho
    rfl
  · cases ho
    exact absurd hcode (errorCode_bits_ne_zero e.code)

/-- The other fields that a success completion sets or leaves do not depend on the command. -/
theorem EngineResult.success_record {s t : State} {l : Latch} (h : EngineResult s t) (hl : s.latch = some l) (hcode : t.lastCode = 0) :
    t.lastOpcode = opField l.cmd ∧ t.irqDone = true ∧ t.irqErr = s.irqErr ∧ t.irqOverrun = s.irqOverrun ∧ t.latch = none := by
  cases h with
  | idle hidle => cases hidle.symm.trans hl
  | success ch hl' hc =>
    cases hl'.symm.trans hl
    obtain ⟨_, _, _, _, rfl⟩ := hc
    exact ⟨rfl, rfl, rfl, rfl, rfl⟩
  | error e => exact absurd hcode (errorCode_bits_ne_zero e.code)

/-- Settles O30: the channel is the one each command hands to its completion; the rest is the same for all. -/
theorem successRecordsItsCommand : Obligations.SuccessRecordsItsCommand := by
  intro i s t l hl h hcode
  obtain ⟨u, hu, hresult⟩ := exec_engineResult i s
  cases hu.symm.trans h
  obtain ⟨hopcode, hflags⟩ := hresult.success_record hl hcode
  refine ⟨hopcode, ?_, hflags⟩
  cases i with
  | nop => exact complete_lastCh (ch := 0#2) (body := fun _ => .ok s) hl h hcode
  | dct | runFrame | reduce ch | reorder ch | runCh ch | zzgen m => exact complete_lastCh hl h hcode

end Sys2Proof.Machine

/-! SUPPORT. RUN_CH (R185) and RUN_FRAME (R186, R187) from what reducing their planes answers: O24 to O28. -/

namespace Sys2Proof.Machine

/-! ### RUN_CH -/

theorem exec_runCh_of_ok {s : State} {l : Latch} {c : Fin 3} {g : BlockGrid} (hl : s.latch = some l) (h : reducePlane s l c = .ok g) :
    exec (.runCh (chBits c)) s = .next (succeed l.cmd (chBits c)
      (commitDescriptor c (reorder (dctRef g)) (commitCoeffGrid (dctRef g) (commitBlockGrid g s)))) :=
  complete_of_ok hl (by rw [channelOperand_chBits]; simp only [bind, Except.bind, h]; rfl)

/-- Settles O24: the grid is the plane's means, as for REDUCE, and the two other results are made from it. -/
theorem runChCommitsAllThreeResults : Obligations.RunChCommitsAllThreeResults := fun s l c hl hp hclean =>
  ⟨planeMeans s l c (l.plane c), planeMeans_isBlockGridOf s l c, exec_runCh_of_ok hl (reducePlane_of_readsClean hp hclean)⟩

theorem tableWord_toNat (w : Word) : tableWord 32 w.toNat = w := by
  rw [tableWord, Nat.mod_eq_of_lt w.isLt, BitVec.ofNat_toNat, BitVec.setWidth_eq]

theorem step_withFetchWord_encode (s : State) (i : Instr) :
    step (s.withFetchWord 32 (encode i).toNat) = exec i (s.accepted (encode i)) := by
  have hd : decodeTableWord 32 (encode i).toNat = some i := by simp only [decodeTableWord, tableWord_toNat, decode_encode]
  rw [step_withFetchWord hd, tableWord_toNat]

/-- Reducing a plane does not look at the command word that was accepted. -/
theorem reducePlane_accepted (s : State) (w : Word) (c : Fin 3) :
    reducePlane (s.accepted w) (captureLatch w s) c = reducePlane s (captureLatch 0 s) c := rfl

/-- Settles O25: REDUCE and RUN_CH reduce the same plane to one grid `g`; DCT and REORDER then find `g` and its transform. -/
theorem runChEqualsItsThreeCommands : Obligations.RunChEqualsItsThreeCommands := by
  intro s c hp hclean
  have hg (w : Word) : reducePlane (s.accepted w) (captureLatch w s) c = .ok (planeMeans s (captureLatch 0 s) c (s.plane c)) :=
    (reducePlane_accepted s w c).trans (reducePlane_of_readsClean hp hclean)
  simp only [step_withFetchWord_encode]
  exact ⟨_, _, _, _, exec_reduce_of_ok rfl (hg _), exec_dct_of_bg rfl rfl, exec_reorder_of_cg c rfl rfl, exec_runCh_of_ok rfl (hg _),
    rfl, rfl, rfl, rfl, rfl⟩

/-! ### RUN_FRAME -/

/-- Validation comes channel by channel, before every read (R186). -/
theorem exec_runFrame_of_invalid {s : State} {l : Latch} {c : Fin 3} {e : CmdError} (hl : s.latch = some l)
    (hok : ∀ d < c, PlaneOk s.platform l d) (h : validatePlane s.platform l c = .error e) :
    exec .runFrame s = .next (takeError l.cmd e s) := by
  refine complete_of_error hl ?_
  match c with
  | 0 => rw [h]; rfl
  | 1 => rw [validatePlane_of_ok (hok 0 (by decide)), h]; rfl
  | 2 => rw [validatePlane_of_ok (hok 0 (by decide)), validatePlane_of_ok (hok 1 (by decide)), h]; rfl

/-- With all planes valid, the reads come channel by channel (R186). -/
theorem exec_runFrame_of_reduce_error {s : State} {l : Latch} {c : Fin 3} {e : CmdError} (hl : s.latch = some l)
    (hok : ∀ d, PlaneOk s.platform l d) (hclean : ∀ d < c, ReadsClean s.platform (l.plane d)) (h : reducePlane s l c = .error e) :
    exec .runFrame s = .next (takeError l.cmd e s) := by
  have hg (d : Fin 3) (hd : d < c) := reducePlane_of_readsClean (hok d) (hclean d hd)
  refine complete_of_error hl ?_
  rw [validatePlane_of_ok (hok 0), validatePlane_of_ok (hok 1), validatePlane_of_ok (hok 2)]
  match c with
  | 0 => rw [h]; rfl
  | 1 => rw [hg 0 (by decide), h]; rfl
  | 2 => rw [hg 0 (by decide), hg 1 (by decide), h]; rfl

theorem exec_runFrame_of_ok {s : State} {l : Latch} {g : Fin 3 → BlockGrid} (hl : s.latch = some l)
    (hok : ∀ c, PlaneOk s.platform l c) (hg : ∀ c, reducePlane s l c = .ok (g c)) :
    exec .runFrame s = .next (succeed l.cmd 0#2 (commitDescriptor 2 (reorder (dctRef (g 2)))
      (commitDescriptor 1 (reorder (dctRef (g 1))) (commitDescriptor 0 (reorder (dctRef (g 0)))
        (commitCoeffGrid (dctRef (g 2)) (commitBlockGrid (g 2) s)))))) := by
  refine complete_of_ok hl ?_
  rw [validatePlane_of_ok (hok 0), validatePlane_of_ok (hok 1), validatePlane_of_ok (hok 2), hg 0, hg 1, hg 2]
  rfl

/-- Three entries written one by one are the whole vector. -/
theorem set_all_three {α : Type} (v : Vector α 3) (a b c : α) : ((v.set 0 a).set 1 b).set 2 c = #v[a, b, c] := by
  refine Vector.ext fun n hn => ?_
  match n, hn with
  | 0, _ | 1, _ | 2, _ => simp

/-- Settles O26: the three planes reduce to their means, and the commits write every descriptor. -/
theorem runFrameCommitsThreeDescriptors : Obligations.RunFrameCommitsThreeDescriptors := by
  intro s l hl hp
  refine ⟨fun c => planeMeans s l c (l.plane c), fun c => planeMeans_isBlockGridOf s l c, ?_⟩
  rw [exec_runFrame_of_ok hl (fun c => (hp c).1) fun c => reducePlane_of_readsClean (hp c).1 (hp c).2, succeed_eq_successState,
    ← set_all_three s.desc]
  rfl

/-- R123 looks at the sample memory's size only, not at where it faults. -/
theorem planeOk_withFaultRanges {pl : Platform} {l : Latch} {c : Fin 3} (r : List AddrRange) :
    PlaneOk { pl with faultRanges := r } l c ↔ PlaneOk pl l c :=
  ⟨fun ⟨hp, hw, hh, hs, hi⟩ => ⟨hp, hw, hh, hs, hi⟩, fun ⟨hp, hw, hh, hs, hi⟩ => ⟨hp, hw, hh, hs, hi⟩⟩

theorem exec_runFrame_of_first_bad {s : State} {l : Latch} {c : Fin 3} (hl : s.latch = some l)
    (hok : ∀ d < c, PlaneOk s.platform l d) (hbad : ¬PlaneOk s.platform l c) :
    exec .runFrame s = .next (errorState s l.cmd (planeErrorCode l c) (chBits c)) := by
  obtain ⟨code, hvalid, hcode⟩ := validatePlane_of_not_ok hbad
  exact hcode ▸ exec_runFrame_of_invalid hl hok hvalid

/-- Settles O27: memory and read faults are no part of what R123 looks at, so the same holds of the state with others. -/
theorem runFrameReportsTheFirstBadPlane : Obligations.RunFrameReportsTheFirstBadPlane := fun _ _ _ hl hok hbad =>
  ⟨exec_runFrame_of_first_bad hl hok hbad, fun _ r =>
    exec_runFrame_of_first_bad (by exact hl) (fun d hd => (planeOk_withFaultRanges r).mpr (hok d hd))
      fun h => hbad ((planeOk_withFaultRanges r).mp h)⟩

/-- Settles O28: the channels below reduce to grids that are dropped, and this one's reduction is the error. -/
theorem runFrameReadFaultIsBusError : Obligations.RunFrameReadFaultIsBusError := fun _ _ c _ hl hok hclean ha hf =>
  exec_runFrame_of_reduce_error hl hok hclean (reducePlane_of_readFault (hok c) ha hf)

end Sys2Proof.Machine

/-! SUPPORT. Error completions (R214, R218) and the interrupt output (R220): O29 and O42. -/

namespace Sys2Proof.Machine

/-! ### The record of an error (R214) -/

/-- A completion that reports a code is the error one: a success reports 0, and a busy machine does not idle. -/
theorem EngineResult.error_record {s t : State} {l : Latch} (h : EngineResult s t) (hl : s.latch = some l) (hcode : t.lastCode ≠ 0) :
    t = errorState s l.cmd t.lastCode t.lastCh := by
  cases h with
  | idle hidle => cases hidle.symm.trans hl
  | success ch _ _ => exact absurd rfl hcode
  | error e hl' =>
    cases hl'.symm.trans hl
    exact takeError_eq_errorState l.cmd e s

/-- Settles O29: what an error completion leaves does not depend on the command. -/
theorem errorsChangeOnlyLastErrAndIrqErr : Obligations.ErrorsChangeOnlyLastErrAndIrqErr := by
  intro i s t l hl h hcode
  obtain ⟨u, hu, hresult⟩ := exec_engineResult i s
  cases hu.symm.trans h
  exact hresult.error_record hl hcode

/-! ### The interrupt output (R220) -/

theorem and_ne_zero_iff_exists_getLsbD {w : Nat} {x y : BitVec w} :
    x &&& y ≠ 0 ↔ ∃ i, x.getLsbD i = true ∧ y.getLsbD i = true := by
  constructor
  · contrapose!
    intro h
    refine BitVec.eq_of_getLsbD_eq fun i _ => ?_
    simpa using h i
  · rintro ⟨i, hx, hy⟩ h
    simpa [hx, hy] using congrArg (BitVec.getLsbD · i) h

/-- Bits 0, 1 and 2 of IRQ_ENABLE are its field (R30). -/
theorem irqEnableWord_getLsbD (s : State) (i : Nat) : (irqEnableWord s).getLsbD i = s.irqEn.getLsbD i := by
  rw [irqEnableWord, zero_append_three, BitVec.getLsbD_setWidth, Bool.and_eq_right_iff_imp, decide_eq_true_iff]
  intro h
  have := BitVec.lt_of_getLsbD h
  omega

/-- The output's three terms are the three bits that IRQ_STATUS can have set (R29). -/
theorem irqOutput_eq_true_iff (s : State) :
    irqOutput s = true ↔ ∃ i, (irqStatusWord s).getLsbD i = true ∧ (irqEnableWord s).getLsbD i = true := by
  simp only [irqOutput, irqStatusWord_getLsbD, irqEnableWord_getLsbD, Bool.or_eq_true, Bool.and_eq_true]
  constructor
  · rintro ((h | h) | h)
    · exact ⟨0, h⟩
    · exact ⟨1, h⟩
    · exact ⟨2, h⟩
  · rintro ⟨i, hstatus, henable⟩
    split_ifs at hstatus with h0 h1 h2
    · exact .inl (.inl ⟨hstatus, h0 ▸ henable⟩)
    · exact .inl (.inr ⟨hstatus, h1 ▸ henable⟩)
    · exact .inr ⟨hstatus, h2 ▸ henable⟩

/-- Settles O42: offsets 0x018 and 0x01C read IRQ_STATUS and IRQ_ENABLE (R23), and the output compares the two bit by bit. -/
theorem interruptLineIsEnabledAndPending : Obligations.InterruptLineIsEnabledAndPending := fun s =>
  (irqOutput_eq_true_iff s).trans and_ne_zero_iff_exists_getLsbD.symm

end Sys2Proof.Machine

/-! SUPPORT. Configuration writes against the command in flight (R265), the two resets (R250, R251), and the progress of every
schedule (R270): O43, O40 and O10. -/

namespace Sys2Proof.Machine

/-! ### Configuration writes while busy (R43, R265) -/

/-- `s` with its live configuration (R30 to R35) edited. -/
def State.editConfig (en present : BitVec 3 → BitVec 3) (planes : Vector PlaneRegs 3 → Vector PlaneRegs 3) (s : State) : State :=
  { s with irqEn := en s.irqEn, chPresent := present s.chPresent, planes := planes s.planes }

/-- A command works from its latch, so it sees nothing of the live configuration (R43). -/
theorem unseen_editConfig (s : State) (l : Latch) (en present : BitVec 3 → BitVec 3)
    (planes : Vector PlaneRegs 3 → Vector PlaneRegs 3) : Unseen s l (State.editConfig en present planes) where
  latch := rfl
  bg := rfl
  cg := rfl
  platform := rfl
  reducePlane _ := rfl
  blockGrid _ _ := rfl
  coeffGrid _ _ := rfl
  descriptor _ _ _ := rfl
  zigzag _ _ := rfl
  succeed _ _ _ := rfl
  takeError _ _ _ := rfl

/-- A write to a PLANE register, IRQ_ENABLE or CH_PRESENT edits the live configuration, in every state alike. -/
theorem regWrite_configuration {off : BitVec 12} (v : Word)
    (h : 0x040 ≤ off.toNat ∧ off.toNat < 0x070 ∨ off = 0x01C#12 ∨ off = 0x020#12) :
    ∃ en present planes, (fun s => regWrite s off v) = State.editConfig en present planes := by
  obtain ⟨hlo, hhi⟩ | rfl | rfl := h
  · have hplane : isPlaneOffset off.toNat = true := by simp [isPlaneOffset, hlo, hhi]
    exact ⟨id, id, fun ps => ps.set (planeIndex off.toNat).val
      (planeWrite ps[(planeIndex off.toNat).val] (off.toNat / 4 % 4) v), funext fun _ => if_pos hplane⟩
  · exact ⟨fun _ => v.extractLsb' 0 3, id, id, rfl⟩
  · exact ⟨id, fun _ => v.extractLsb' 0 3, id, rfl⟩

/-- Settles O43: such a write is an edit of the live configuration, which no completion sees. -/
theorem configurationWritesDoNotReachTheCommandInFlight : Obligations.ConfigurationWritesDoNotReachTheCommandInFlight := by
  intro i s l off v hl hoff
  obtain ⟨en, present, planes, hw⟩ := regWrite_configuration v hoff
  have hunseen : Unseen s l (fun t => regWrite t off v) := hw ▸ unseen_editConfig s l en present planes
  exact hunseen.exec hl i

/-! ### The two resets (R250, R251) -/

/-- A machine just reset has nothing pending and accepts a command (R180, R220). -/
theorem resetDevice_ready (s : State) (w : Word) :
    irqOutput (resetDevice s) = false ∧ (resetDevice s).busy = false ∧
      ∃ l, (regWrite (resetDevice s) 0x00C#12 w).latch = some l ∧ l.cmd = w :=
  ⟨rfl, rfl, captureLatch w (resetDevice s), by rw [regWrite_cmd, issue_of_idle rfl], rfl⟩

theorem step_hardReset {s : State} {rest : List Turn} (h : s.schedule = .hardReset :: rest) :
    step s = .next (resetDevice { s with schedule := rest }) := step_of_turn h

/-- Settles O40: a CTRL write with bit 0 set and the reset input both do `resetDevice`, which is the state written out. -/
theorem resetsClearTheDevice : Obligations.ResetsClearTheDevice := fun s _ w _ hv =>
  ⟨regWrite_softReset s hv, step_hardReset rfl, resetDevice_ready s w⟩

/-! ### Progress (R270) -/

theorem regWrite_program_and_schedule (s : State) (off : BitVec 12) (v : Word) :
    (regWrite s off v).hostProgram = s.hostProgram ∧ (regWrite s off v).schedule = s.schedule := by
  obtain ⟨_, _, _, hw⟩ | hw | hw | hw | hw := regWrite_cases s off v <;> rw [hw]
  case inr.inr.inl => unfold issue; split <;> exact ⟨rfl, rfl⟩
  all_goals exact ⟨rfl, rfl⟩

/-- From `s` to `t` the schedule stays, and the Host's program gains no access. -/
def AgendaFrame (s t : State) : Prop := t.hostProgram ⊆ s.hostProgram ∧ t.schedule = s.schedule

/-- A POLL that goes on puts itself back; no other access adds to the program. -/
theorem hostAccess_agenda {op : HostOp} {s t : State} (h : hostAccess op s = .next t) :
    t.hostProgram ⊆ op :: s.hostProgram ∧ t.schedule = s.schedule := by
  have hrest : s.hostProgram ⊆ op :: s.hostProgram := List.subset_cons_self ..
  cases op with
  | regRead off bits =>
    obtain rfl := eq_of_registerAccess_eq_next h
    exact ⟨hrest, rfl⟩
  | regWrite off bits v =>
    obtain rfl := eq_of_registerAccess_eq_next h
    obtain ⟨hprogram, hschedule⟩ := regWrite_program_and_schedule s off v
    exact ⟨hprogram ▸ hrest, hschedule⟩
  | poll off mask val =>
    obtain rfl := eq_of_registerAccess_eq_next h
    split
    · exact ⟨hrest, rfl⟩
    · exact ⟨List.Subset.refl _, rfl⟩
  | join off =>
    cases h
    exact ⟨joinReads_hostProgram off s ▸ hrest, joinReads_schedule off s⟩
  | readBeyond off => cases h
  | mem8 a b =>
    cases h
    exact ⟨hrest, rfl⟩

theorem hostStep_agendaFrame {s t : State} (h : hostStep s = .next t) : AgendaFrame s t := by
  rcases hp : s.hostProgram with _ | ⟨op, rest⟩
  · simp only [hostStep, hp] at h
    cases h
    exact ⟨List.Subset.refl _, rfl⟩
  · rw [hostStep_cons hp] at h
    rw [AgendaFrame, hp]
    exact hostAccess_agenda h

theorem engineStep_agendaFrame {s t : State} (h : engineStep s = .next t) : AgendaFrame s t := by
  obtain ⟨u, hu, hresult⟩ := engineStep_engineResult s
  cases hu.symm.trans h
  obtain ⟨-, hprogram, hschedule⟩ := hresult.idle_and_hostSide
  exact ⟨hprogram ▸ List.Subset.refl _, hschedule⟩

theorem turnStep_agendaFrame {turn : Turn} {s t : State} (h : turnStep turn s = .next t) : AgendaFrame s t := by
  cases turn with
  | host => exact hostStep_agendaFrame h
  | engine => exact engineStep_agendaFrame h
  | hardReset =>
    cases h
    exact ⟨List.Subset.refl _, rfl⟩

/-- What R270's progress rests on: live sample memory, and no access left that would stop the Host. -/
structure CanProgress (s : State) : Prop where
  live  : s.platform.sampleMemLive = true
  legal : ∀ op ∈ s.hostProgram, op.legal = true

/-- A machine that can progress takes the first turn of its schedule and can still progress. -/
theorem CanProgress.step_of_schedule {s : State} {turn : Turn} {rest : List Turn} (h : CanProgress s)
    (hs : s.schedule = turn :: rest) : ∃ t, step s = .next t ∧ CanProgress t ∧ t.schedule = rest := by
  obtain ⟨t, ht⟩ | ⟨-, op, p, -, hp, hop⟩ := step_stopsOnlyAtBadAccess s
  · obtain ⟨hplatform, -⟩ := step_sampleMemoryFrame ht
    obtain ⟨hprogram, hschedule⟩ := turnStep_agendaFrame ((step_of_turn hs).symm.trans ht)
    exact ⟨t, ht, ⟨hplatform ▸ h.live, fun op hop => h.legal op (hprogram hop)⟩, hschedule⟩
  · exact absurd (h.legal op (hp ▸ List.mem_cons_self)) (by simp [hop])

/-- With the schedule used up, a busy machine is idle after one step. -/
theorem CanProgress.step_of_busy {s : State} (h : CanProgress s) (hs : s.schedule = []) (hbusy : s.busy = true) :
    ∃ t, step s = .next t ∧ t.busy = false := by
  obtain ⟨l, hl⟩ := busy_eq_true_iff.mp hbusy
  obtain ⟨t, ht, hidle⟩ := engineStepAlwaysCompletes s l hl
  exact ⟨t, by rw [step_of_no_schedule hs, hbusy, h.live, Bool.and_self, if_pos rfl, ht], busy_eq_false_iff.mpr hidle⟩

/-- By induction on the schedule: its turns are taken one by one, and then the Engine completes what is in flight. -/
theorem CanProgress.eventually_idle {s : State} {sched : List Turn} (h : CanProgress s) (hs : s.schedule = sched) :
    ∃ k t, k ≤ sched.length + 1 ∧ Sys2Proof.core.run k s = .next t ∧ t.busy = false := by
  induction sched generalizing s with
  | nil =>
    rcases hbusy : s.busy with _ | _
    · exact ⟨0, s, Nat.zero_le _, rfl, hbusy⟩
    · obtain ⟨t, ht, hidle⟩ := h.step_of_busy hs hbusy
      exact ⟨1, t, Nat.le_refl _, (run_one s).trans ht, hidle⟩
  | cons turn rest ih =>
    obtain ⟨u, hu, hcan, hrest⟩ := h.step_of_schedule hs
    obtain ⟨k, t, hk, hrun, hidle⟩ := ih hcan hrest
    exact ⟨k + 1, t, Nat.succ_le_succ hk, (run_succ_of_step hu k).trans hrun, hidle⟩

/-- Settles O10: the schedule loses a turn with every step, and the Engine moves when none is left. -/
theorem engineIsEventuallyIdle : Obligations.EngineIsEventuallyIdle := fun _ hlive hlegal =>
  CanProgress.eventually_idle ⟨hlive, hlegal⟩ rfl

end Sys2Proof.Machine
